-- ==== Sys2Proof/Word.lean ====
section
/-! DEFINITION. The word types of the command port and of the report banks, and the two names for what an
open-drain driver can do to a line. -/

namespace Sys2Proof

/-- A command word: 16 bits, OPC in bits 15..8 and ARG in bits 7..0 (30_encoding R80). -/
abbrev Word := BitVec 16

/-- A byte: an opcode, an argument, a byte of a report, the shift byte. -/
abbrev Byte := BitVec 8

/-- What a driver of the open-drain line does: it lets the line go, or it pulls it low.
No driver ever drives high (10_state R20, R39; 92 D38). -/
inductive Drive where
  | released
  | low
deriving DecidableEq, Repr, Inhabited

end Sys2Proof
end

