-- ==== Sys2Proof/Config.lean ====
section
/-! DEFINITION. The implementation parameters of 00_scope R8. A machine carries one `Params` in its state,
no step changes it, and a statement over all states is a statement over all configurations. -/

namespace Sys2Proof

/-- The parameters of 00_scope R8, in the order of its table. The rows R8 calls derived or fixed by the
source (SMAX, RESP_BITS, N_SAMPLES, DATA_W) are functions in Machine/Ops.lean. -/
structure Params where
  /-- CMD_LEN: bits in the upstream command frame, the stop bit not counted. -/
  cmdLen : Nat
  /-- CMD_FRAME: the frame, sent from bit CMD_LEN-1 down to bit 0. -/
  cmdFrame : Nat
  /-- T_SHORT: ticks of a short pulse. -/
  tShort : Nat
  /-- T_LONG: ticks of a long pulse. -/
  tLong : Nat
  /-- SAMPLE_W: width in bits of a pulse-sample count. -/
  sampleW : Nat
  /-- INVERT_MASK: bit k set means that analog channel k is complemented. -/
  invertMask : BitVec 6
  /-- ELAPSED_W: width of the elapsed counter and of the threshold. -/
  elapsedW : Nat
  /-- POLL_DUR: the upstream poll duration, in ticks. -/
  pollDur : Nat
  /-- MARGIN: the safety margin, in ticks. -/
  margin : Nat
  /-- MIN_IDLE: the minimum-idle floor, in ticks. -/
  minIdle : Nat
  /-- DEFAULT_THR: the conservative default threshold, in ticks. -/
  defaultThr : Nat
  /-- WDT_TICKS: the watchdog's length, in ticks. -/
  wdtTicks : Nat
  /-- DATA_IDLE: idle level of the downstream data line. -/
  dataIdle : Bool
  /-- SHIFT_RESET: reset value of the shift byte. -/
  shiftReset : Byte
  /-- RECORD_ON_ABORT: aborted transactions also raise HOSTPOLLED. -/
  recordOnAbort : Bool
deriving DecidableEq, Repr

/-- CFG_EX, the example configuration of 00_scope R8. Its values for OPEN parameters are for tests only:
they say nothing about the original build (log 1). -/
def cfgEx : Params where
  cmdLen := 24
  cmdFrame := 0x400300
  tShort := 1
  tLong := 3
  sampleW := 8
  invertMask := 0b110000#6
  elapsedW := 16
  pollDur := 333
  margin := 666
  minIdle := 600
  defaultThr := 300
  wdtTicks := 100
  dataIdle := true
  shiftReset := 0xFF#8
  recordOnAbort := false

end Sys2Proof
end

