-- ==== Sys2Proof/Syntax.lean ====
section
/-! DEFINITION. The commands of the block (30_encoding R84), one constructor a row of the opcode table, and the
lines of a command script (30_encoding R99) as data. -/

namespace Sys2Proof

/-- The commands of 30_encoding R84. An operand is held at the width its field has in the command word
(R85), so an operand that cannot be encoded cannot be written (20_memory R70). -/
inductive Instr where
  | init
  | poll
  | probe
  | changed
  | build
  | rdbuilt (i : BitVec 3)
  | rdsent (i : BitVec 3)
  | maypoll
  | rdthr
  | rdelapsed
  | rdsched
  | setbyte (b : Byte)
  | rdbyte
  | rdslv
deriving DecidableEq, Repr

/-- The mnemonics of 30_encoding R84. -/
inductive Mnemonic where
  | init | poll | probe
  | changed | build | rdbuilt | rdsent
  | maypoll | rdthr | rdelapsed | rdsched
  | setbyte | rdbyte | rdslv
deriving DecidableEq, Repr

/-- The three forms of ARG (30_encoding R81). -/
inductive ArgForm where
  /-- ARG must be 0x00. -/
  | none
  /-- ARG[2:0] is a byte index and ARG[7:3] must be 0. -/
  | idx
  /-- ARG[7:0] is a value used as it is. -/
  | imm8
deriving DecidableEq, Repr

/-- The ARG form that OPC fixes (30_encoding R84). -/
def Mnemonic.form : Mnemonic → ArgForm
  | .rdbuilt | .rdsent => .idx
  | .setbyte => .imm8
  | .init | .poll | .probe | .changed | .build | .maypoll | .rdthr | .rdelapsed | .rdsched | .rdbyte
  | .rdslv => .none

/-- The mnemonic of a command. -/
def Instr.mnemonic : Instr → Mnemonic
  | .init => .init
  | .poll => .poll
  | .probe => .probe
  | .changed => .changed
  | .build => .build
  | .rdbuilt _ => .rdbuilt
  | .rdsent _ => .rdsent
  | .maypoll => .maypoll
  | .rdthr => .rdthr
  | .rdelapsed => .rdelapsed
  | .rdsched => .rdsched
  | .setbyte _ => .setbyte
  | .rdbyte => .rdbyte
  | .rdslv => .rdslv

/-- One line of a command script (30_encoding R99): a command with at most one operand, or an event line. -/
inductive ScriptLine where
  /-- A command line: its mnemonic and the number after `#`, if one stands there. -/
  | command (m : Mnemonic) (operand : Option Nat)
  /-- `@TICK*n`; `@TICK` is n = 1. -/
  | tick (n : Nat)
  /-- `@LATCH 1` or `@LATCH 0`. -/
  | latch (level : Bool)
  /-- `@CLK 1` or `@CLK 0`. -/
  | clk (level : Bool)
  /-- `@PERI LOW` or `@PERI REL`. -/
  | peri (v : Drive)
deriving DecidableEq, Repr

/-- The script line that names a command. -/
def Instr.line : Instr → ScriptLine
  | .rdbuilt i => .command .rdbuilt (some i.toNat)
  | .rdsent i => .command .rdsent (some i.toNat)
  | .setbyte b => .command .setbyte (some b.toNat)
  | .init => .command .init .none
  | .poll => .command .poll .none
  | .probe => .command .probe .none
  | .changed => .command .changed .none
  | .build => .command .build .none
  | .maypoll => .command .maypoll .none
  | .rdthr => .command .rdthr .none
  | .rdelapsed => .command .rdelapsed .none
  | .rdsched => .command .rdsched .none
  | .rdbyte => .command .rdbyte .none
  | .rdslv => .command .rdslv .none

end Sys2Proof
end

