-- ==== Sys2Proof/WellFormed.lean ====
section
/-! DEFINITION. What is well formed: a configuration (00_scope R8), a script line and a command (30_encoding R99),
and a command word, read off the opcode table (30_encoding R97). -/

namespace Sys2Proof

/-- The constraints of 00_scope R8, by the name of what breaks one. -/
inductive ConfigFlaw where
  /-- 1 <= T_SHORT < T_LONG fails. -/
  | pulses
  /-- SAMPLE_W >= 1 fails. -/
  | sampleWidth
  /-- POLL_DUR + MARGIN < 2^ELAPSED_W fails. -/
  | pollWindow
  /-- DEFAULT_THR < 2^ELAPSED_W fails. -/
  | defaultThreshold
  /-- MIN_IDLE < 2^ELAPSED_W fails. -/
  | minimumIdle
  /-- WDT_TICKS >= 1 fails. -/
  | watchdog
  /-- Bits 4 and 5 of INVERT_MASK are not both 1. -/
  | triggerPolarity
deriving DecidableEq, Repr

/-- The constraints of 00_scope R8 that a configuration breaks. -/
def Params.flaws (c : Params) : List ConfigFlaw :=
  (if 1 ≤ c.tShort ∧ c.tShort < c.tLong then [] else [.pulses]) ++
  (if 1 ≤ c.sampleW then [] else [.sampleWidth]) ++
  (if c.pollDur + c.margin < 2 ^ c.elapsedW then [] else [.pollWindow]) ++
  (if c.defaultThr < 2 ^ c.elapsedW then [] else [.defaultThreshold]) ++
  (if c.minIdle < 2 ^ c.elapsedW then [] else [.minimumIdle]) ++
  (if 1 ≤ c.wdtTicks then [] else [.watchdog]) ++
  (if c.invertMask.getLsbD 4 && c.invertMask.getLsbD 5 then [] else [.triggerPolarity])

/-- A configuration that breaks no constraint. The machine refuses to step on any other (93 A21). -/
def Params.valid (c : Params) : Bool := c.flaws.isEmpty

/-- A script line's operand fits its command: none, a byte index 0..7, or a byte 0..255
(30_encoding R99). Event lines are always well formed. -/
def ScriptLine.wellFormed : ScriptLine → Bool
  | .command m operand =>
    match m.form, operand with
    | .none, .none => true
    | .idx, .some n => n < 8
    | .imm8, .some n => n < 256
    | .none, .some _ => false
    | .idx, .none => false
    | .imm8, .none => false
  | .tick _ | .latch _ | .clk _ | .peri _ => true

/-- A command is well formed when the line that names it is. The operand types make this true of every
command (20_memory R70); Laws/Encoding.lean proves it. -/
def Instr.wellFormed (i : Instr) : Bool := i.line.wellFormed

/-- One row of spec/opcode_table.json. -/
structure Row where
  mnemonic : Mnemonic
  pattern : Word
  mask : Word
deriving DecidableEq, Repr

/-- spec/opcode_table.json, row by row (30_encoding R84). -/
def opcodeTable : List Row :=
  [⟨.init, 0x0100#16, 0xFFFF#16⟩,
   ⟨.poll, 0x0200#16, 0xFFFF#16⟩,
   ⟨.probe, 0x0300#16, 0xFFFF#16⟩,
   ⟨.changed, 0x1000#16, 0xFFFF#16⟩,
   ⟨.build, 0x1100#16, 0xFFFF#16⟩,
   ⟨.rdbuilt, 0x1200#16, 0xFFF8#16⟩,
   ⟨.rdsent, 0x1300#16, 0xFFF8#16⟩,
   ⟨.maypoll, 0x2000#16, 0xFFFF#16⟩,
   ⟨.rdthr, 0x2100#16, 0xFFFF#16⟩,
   ⟨.rdelapsed, 0x2200#16, 0xFFFF#16⟩,
   ⟨.rdsched, 0x2300#16, 0xFFFF#16⟩,
   ⟨.setbyte, 0x3000#16, 0xFF00#16⟩,
   ⟨.rdbyte, 0x3100#16, 0xFFFF#16⟩,
   ⟨.rdslv, 0x3200#16, 0xFFFF#16⟩]

/-- A word matches a row: `(word & mask) = match` (30_encoding R97). -/
def Row.holds (r : Row) (w : Word) : Bool := w &&& r.mask == r.pattern

/-- The rows a word matches. -/
def rowsOf (w : Word) : List Mnemonic := (opcodeTable.filter (·.holds w)).map (·.mnemonic)

/-- A word is legal iff it matches a row of the table (30_encoding R97). -/
def legalWord (w : Word) : Bool := opcodeTable.any (·.holds w)

end Sys2Proof
end

