-- ==== Sys2Proof/Decode.lean ====
section
/-! DEFINITION. From command words to commands, total and rejecting by name, and back; and the assembling of script
lines. Both directions are written from the opcode map of 30_encoding R84. -/

namespace Sys2Proof

/-- Why a word is no command (30_encoding R97). -/
inductive Illegal where
  /-- No row has this OPC. -/
  | unassignedOpcode (opc : Byte)
  /-- A none-form OPC with ARG != 0. -/
  | argumentNotZero (opc arg : Byte)
  /-- An idx-form OPC with ARG[7:3] != 0. -/
  | indexOutOfRange (opc arg : Byte)
deriving DecidableEq, Repr

/-- OPC, bits 15..8 of a command word (30_encoding R80). -/
def opcOf (w : Word) : Byte := w.extractLsb' 8 8

/-- ARG, bits 7..0 of a command word (30_encoding R80). -/
def argOf (w : Word) : Byte := w.extractLsb' 0 8

/-- The idx operand, ARG[2:0] (30_encoding R85). -/
def idxOf (arg : Byte) : BitVec 3 := arg.extractLsb' 0 3

/-- A none-form command: ARG must be 0x00 (30_encoding R81). -/
def withoutArg (opc arg : Byte) (i : Instr) : Except Illegal Instr :=
  if arg = 0#8 then .ok i else .error (.argumentNotZero opc arg)

/-- An idx-form command: ARG[7:3] must be 0 (30_encoding R81). -/
def withIndex (opc arg : Byte) (i : BitVec 3 → Instr) : Except Illegal Instr :=
  if arg.extractLsb' 3 5 = 0#5 then .ok (i (idxOf arg)) else .error (.indexOutOfRange opc arg)

/-- The command a word stands for, or why it stands for none (30_encoding R84, R97). -/
def decode (w : Word) : Except Illegal Instr :=
  match (opcOf w).toNat with
  | 0x01 => withoutArg (opcOf w) (argOf w) .init
  | 0x02 => withoutArg (opcOf w) (argOf w) .poll
  | 0x03 => withoutArg (opcOf w) (argOf w) .probe
  | 0x10 => withoutArg (opcOf w) (argOf w) .changed
  | 0x11 => withoutArg (opcOf w) (argOf w) .build
  | 0x12 => withIndex (opcOf w) (argOf w) .rdbuilt
  | 0x13 => withIndex (opcOf w) (argOf w) .rdsent
  | 0x20 => withoutArg (opcOf w) (argOf w) .maypoll
  | 0x21 => withoutArg (opcOf w) (argOf w) .rdthr
  | 0x22 => withoutArg (opcOf w) (argOf w) .rdelapsed
  | 0x23 => withoutArg (opcOf w) (argOf w) .rdsched
  | 0x30 => .ok (.setbyte (argOf w))
  | 0x31 => withoutArg (opcOf w) (argOf w) .rdbyte
  | 0x32 => withoutArg (opcOf w) (argOf w) .rdslv
  | _ => .error (.unassignedOpcode (opcOf w))

/-- The word of a command: OPC in the high byte, ARG in the low byte (30_encoding R80, R84). -/
def encode : Instr → Word
  | .init => 0x0100#16
  | .poll => 0x0200#16
  | .probe => 0x0300#16
  | .changed => 0x1000#16
  | .build => 0x1100#16
  | .rdbuilt i => 0x12#8 ++ (0#5 ++ i)
  | .rdsent i => 0x13#8 ++ (0#5 ++ i)
  | .maypoll => 0x2000#16
  | .rdthr => 0x2100#16
  | .rdelapsed => 0x2200#16
  | .rdsched => 0x2300#16
  | .setbyte b => 0x30#8 ++ b
  | .rdbyte => 0x3100#16
  | .rdslv => 0x3200#16

/-- The command that the decoder reads from the table word `w` of `nbits` bits. A command is one 16-bit
word on a port, so no byte order enters, and bits above `nbits` are 0. -/
def decodeTableWord (nbits w : Nat) : Option Instr :=
  if nbits ≤ 16 ∧ w < 2 ^ nbits then (decode (BitVec.ofNat 16 w)).toOption else none

/-- The command that a script line names, if its operand fits (30_encoding R99). -/
def assemble : ScriptLine → Option Instr
  | .command .init .none => some .init
  | .command .poll .none => some .poll
  | .command .probe .none => some .probe
  | .command .changed .none => some .changed
  | .command .build .none => some .build
  | .command .rdbuilt (.some n) => if n < 8 then some (.rdbuilt (BitVec.ofNat 3 n)) else none
  | .command .rdsent (.some n) => if n < 8 then some (.rdsent (BitVec.ofNat 3 n)) else none
  | .command .maypoll .none => some .maypoll
  | .command .rdthr .none => some .rdthr
  | .command .rdelapsed .none => some .rdelapsed
  | .command .rdsched .none => some .rdsched
  | .command .setbyte (.some n) => if n < 256 then some (.setbyte (BitVec.ofNat 8 n)) else none
  | .command .rdbyte .none => some .rdbyte
  | .command .rdslv .none => some .rdslv
  | _ => none

end Sys2Proof
end

