-- ==== Sys2Proof/Machine/State.lean ====
section
/-! DEFINITION. The state of the block (10_state R20), grouped by the unit that owns each register, the ports, the
agents outside the block, the model's own history, and the state after RESET. -/

namespace Sys2Proof.Machine

/-- UT's phase (10_state R22). -/
inductive UtPhase where
  | idle
  | send
  | sample
  | decode
deriving DecidableEq, Repr

/-- Which command started UT's transaction (10_state R20, ut_op). -/
inductive UtOp where
  | poll
  | probe
deriving DecidableEq, Repr

/-- PS's two states (10_state R30). -/
inductive PsMode where
  | waiting
  | ready
deriving DecidableEq, Repr

/-- SL's phase (10_state R33). -/
inductive SlPhase where
  | idle
  | waitLatchFall
  | shift
deriving DecidableEq, Repr

/-- STATUS of a response (30_encoding R83). Codes 4 to 15 are never produced. -/
inductive Status where
  | ok
  | receiveTimeout
  | frameLengthMismatch
  | illegalCommand
deriving DecidableEq, Repr

/-- A response on the command port (30_encoding R82). DATA is held as a natural. Safety.lean says that it fits
DATA_W bits (log 9). -/
structure Response where
  status : Status
  data : Nat
deriving DecidableEq, Repr

/-- How a downstream transaction ended (60_exceptions R212). -/
inductive EndLabel where
  | completed
  | latchAbort
  | clockTimeout
deriving DecidableEq, Repr

/-- One segment of the send waveform: a level and its ticks (10_state R23). -/
structure Segment where
  drive : Drive
  ticks : Nat
deriving DecidableEq, Repr

/-- A ControllerReport: 8 bytes (30_encoding R93). -/
abbrev Report := Vector Byte 8

/-- Who moves next, and with what (00_scope R7, 30_encoding R98). The environment chooses the order of the moves
(60_exceptions R217). -/
inductive Move where
  /-- The tick source delivers a TICK. -/
  | tick
  /-- The peripheral drives or releases the upstream line: PERI_DRIVE. -/
  | peri (v : Drive)
  /-- The host puts latch_in at a level. -/
  | latch (level : Bool)
  /-- The host puts clk_in at a level. -/
  | clk (level : Bool)
  /-- The controller puts a command word on the command port, where it waits to be accepted. -/
  | command (w : Word)
  /-- The block takes the step it can: LATCH_SERVICE, the UT decode step, or the acceptance of the word that waits. -/
  | block
  /-- The platform's RESET. -/
  | reset
deriving DecidableEq, Repr

/-- UT's registers (10_state R20). -/
structure Ut where
  phase : UtPhase
  op : UtOp
  drive : Drive
  segs : List Segment
  segLeft : Nat
  samples : List Nat
  curLevel : Bool
  cnt : Nat
  timedOut : Bool
deriving DecidableEq, Repr

/-- RS's registers (10_state R20). -/
structure Rs where
  lastBuilt : Report
  lastSent : Report
  first : Bool
deriving DecidableEq, Repr

/-- PS's registers (10_state R20); `mode` is ps_state. -/
structure Ps where
  elapsed : Nat
  ovf : Bool
  threshold : Nat
  mode : PsMode
deriving DecidableEq, Repr

/-- SL's registers (10_state R20); `phase` is sl_state. -/
structure Sl where
  shiftByte : Byte
  sh : Byte
  pos : Fin 8
  phase : SlPhase
  wdt : Nat
  dataOut : Bool
  lpend : Bool
  latchLvl : Bool
  clkLvl : Bool
deriving DecidableEq, Repr

/-- The command port: cmd_pending (10_state R20), and the response that stands on rsp (10_state R38; log 4). -/
structure Port where
  cmdPending : Option Word
  rsp : Option Response
deriving DecidableEq, Repr

/-- What lies outside the block: the levels the environment puts on the lines (10_state R38, R39), the command words
the controller has put on the port that are not accepted yet, the first one first, and the moves yet to come (log 2). -/
structure Env where
  periDrive : Drive
  latchIn : Bool
  clkIn : Bool
  cmds : List Word
  moves : List Move
deriving DecidableEq, Repr

/-- The model's own history, which no rule reads (log 8): the label of the last transaction that ended
(60_exceptions R212), and how many HOSTPOLLED were raised since RESET. -/
structure Hist where
  transEnd : Option EndLabel
  hostPolls : Nat
deriving DecidableEq, Repr

/-- The machine: its configuration, the registers of the four units, the command port, the environment, and the
model's history. -/
structure State where
  cfg : Params
  ut : Ut
  rs : Rs
  ps : Ps
  sl : Sl
  port : Port
  env : Env
  hist : Hist
deriving DecidableEq, Repr

/-- Why the machine stops with a fault: for no reason. "There are no fatal conditions" (60_exceptions R210): every
error is a STATUS code or an internal label, and the machine goes on. No meaning raises a fault. -/
inductive Fault where
deriving DecidableEq, Repr

/-- Why the model refuses a step. -/
inductive Refusal where
  /-- Raised by `exec` alone, for a command that has no meaning yet. Safe: the run stops. -/
  | notModelled (mnemonic : String)
  /-- Raised by `step` alone, on a configuration that breaks a constraint of 00_scope R8 (93 A21). Safe: the spec
  refuses such a configuration, and the run stops before it starts. -/
  | badConfiguration
deriving DecidableEq, Repr

/-- Eight zero bytes, the reset value of both banks (10_state R20). -/
def zeroReport : Report := #v[0#8, 0#8, 0#8, 0#8, 0#8, 0#8, 0#8, 0#8]

/-- The state after RESET of a block with the configuration `c` in the environment `e` (10_state R20, 70 R240).
latch_lvl and clk_lvl take the levels of the inputs. -/
def State.resetWith (c : Params) (e : Env) : State where
  cfg := c
  ut :=
    { phase := .idle, op := .poll, drive := .released, segs := [], segLeft := 0, samples := [], curLevel := true,
      cnt := 0, timedOut := false }
  rs := { lastBuilt := zeroReport, lastSent := zeroReport, first := true }
  ps := { elapsed := 0, ovf := false, threshold := c.defaultThr, mode := .waiting }
  sl :=
    { shiftByte := c.shiftReset, sh := c.shiftReset, pos := 7, phase := .idle, wdt := 0, dataOut := c.dataIdle,
      lpend := false, latchLvl := e.latchIn, clkLvl := e.clkIn }
  port := { cmdPending := none, rsp := none }
  env := e
  hist := { transEnd := none, hostPolls := 0 }

/-- The environment of the test vectors' reset (95): latch_in = 0, clk_in = 1, the peripheral released; nobody has
asked for a move yet (log 5). -/
def Env.quiet : Env where
  periDrive := .released
  latchIn := false
  clkIn := true
  cmds := []
  moves := []

/-- The machine right after RESET, with CFG_EX (log 1) in the quiet environment (log 5). -/
def State.reset : State := State.resetWith cfgEx Env.quiet

end Sys2Proof.Machine
end

