-- ==== Sys2Proof/Machine/Ops.lean ====
section
/-! DEFINITION. The operations that several rules share: derived parameters, the upstream line, the command gate,
accepting and answering, HOSTPOLLED, entering and leaving the latch handler, and RESET. -/

namespace Sys2Proof

/-- SMAX = 2^SAMPLE_W - 1, the largest pulse count (00_scope R8). -/
def Params.smax (c : Params) : Nat := 2 ^ c.sampleW - 1

/-- RESP_BITS: bits in the response frame (00_scope R8, 90 C1). -/
def respBits : Nat := 64

/-- N_SAMPLES = 1 + 2 * RESP_BITS (00_scope R8). -/
def nSamples : Nat := 1 + 2 * respBits

/-- DATA_W = max(8, ELAPSED_W), the width of DATA (00_scope R8). -/
def Params.dataW (c : Params) : Nat := max 8 c.elapsedW

/-- SEND_TICKS, how long the command frame is on the wire (40_transceiver R120). -/
def Params.sendTicks (c : Params) : Nat := c.cmdLen * (c.tShort + c.tLong) + c.tShort

namespace Machine

/-- The 4-bit code of a STATUS (30_encoding R83). -/
def Status.code : Status → BitVec 4
  | .ok => 0#4
  | .receiveTimeout => 1#4
  | .frameLengthMismatch => 2#4
  | .illegalCommand => 3#4

/-- The level on ubus: low if anyone drives low (10_state R39). -/
def ubus (s : State) : Bool := !(s.ut.drive == .low || s.env.periDrive == .low)

/-- UT is in its atomic section (10_state R22); the latch interrupt is masked exactly then (60_exceptions R215). -/
def atomicSection (s : State) : Bool := s.ut.phase == .send || s.ut.phase == .sample

/-- The command gate (20_memory R62). -/
def gateOpen (s : State) : Bool := s.sl.phase == .idle && !s.sl.lpend

/-- The command port can accept a command: the gate is open, and no command is in progress, so that UT is idle
(20_memory R62, 92 D7, 40_transceiver R110, R111). -/
def portReady (s : State) : Bool := gateOpen s && s.ut.phase == .idle && s.port.cmdPending.isNone

/-- `respond(status, data)` (00_scope R10): the response stands on rsp and no command is in progress any more. -/
def respond (status : Status) (data : Nat) (s : State) : State :=
  { s with port := { cmdPending := none, rsp := some { status := status, data := data } } }

/-- A command whose step on the port is `f`: taken when the port is ready. Otherwise the command is not accepted
and waits, without effect (00_scope R11, 20_memory R62; log 15). -/
def onPort (s : State) (f : State → State) : Host.Outcome State Fault Refusal :=
  .next (if portReady s then f s else s)

/-- HOSTPOLLED, raised inside an SL step (42_poll_scheduler R162, 30_encoding R98). -/
def hostPolled (s : State) : State :=
  let c := s.cfg
  let e := s.ps.elapsed
  let t := e - c.pollDur - c.margin
  let threshold :=
    if s.ps.ovf then c.defaultThr
    else if e < c.minIdle then s.ps.threshold
    else if e > c.pollDur + c.margin then (if t < c.minIdle then c.defaultThr else t)
    else c.defaultThr
  { s with
    ps := { elapsed := 0, ovf := false, threshold := threshold, mode := .waiting }
    hist := { s.hist with hostPolls := s.hist.hostPolls + 1 } }

/-- HOSTPOLLED for a transaction that did not complete: only if RECORD_ON_ABORT = 1 (43_slave_emulator R189, R194). -/
def hostPolledOnAbort (s : State) : State := if s.cfg.recordOnAbort then hostPolled s else s

/-- START, the entry into the latch handler (43_slave_emulator R185, 60_exceptions R218): the byte to serve is copied,
its most significant bit goes on the line at once (log 6), the watchdog is armed, and a pending edge merges. -/
def startTransaction (s : State) : State :=
  { s with
    sl := { s.sl with
      sh := s.sl.shiftByte
      pos := 7
      dataOut := s.sl.shiftByte.getLsbD 7
      wdt := s.cfg.wdtTicks
      lpend := false
      phase := if s.sl.latchLvl then .waitLatchFall else .shift } }

/-- The label of a transaction that ends, in the model's history (60_exceptions R212). -/
def labelEnd (label : EndLabel) (s : State) : State := { s with hist := { s.hist with transEnd := some label } }

/-- The return from the latch handler (60_exceptions R219): the data line goes to its idle level and SL is idle. The
label names how the transaction ended (R212). -/
def handlerReturn (label : EndLabel) (s : State) : State :=
  labelEnd label { s with sl := { s.sl with dataOut := s.cfg.dataIdle, phase := .idle } }

/-- RESET (70_reset_and_hazards R240): every register takes its reset value, a command in progress gets no response,
and latch_lvl and clk_lvl take the input levels. What belongs to the environment is not reset. -/
def resetBlock (s : State) : State where
  cfg := s.cfg
  ut :=
    { phase := .idle, op := .poll, drive := .released, segs := [], segLeft := 0, samples := [], curLevel := true,
      cnt := 0, timedOut := false }
  rs := { lastBuilt := zeroReport, lastSent := zeroReport, first := true }
  ps := { elapsed := 0, ovf := false, threshold := s.cfg.defaultThr, mode := .waiting }
  sl :=
    { shiftByte := s.cfg.shiftReset, sh := s.cfg.shiftReset, pos := 7, phase := .idle, wdt := 0,
      dataOut := s.cfg.dataIdle, lpend := false, latchLvl := s.env.latchIn, clkLvl := s.env.clkIn }
  port := { cmdPending := none, rsp := none }
  env := s.env
  hist := { transEnd := none, hostPolls := 0 }

end Machine
end Sys2Proof
end

