-- ==== Sys2Proof/Machine/Flags.lean ====
section
/-! DEFINITION. The conditions and flags the rules compute (10_state R40). -/

namespace Sys2Proof.Machine

/-- ELAPSED >= threshold, where ELAPSED is infinite while OVF = 1 (42_poll_scheduler R161). -/
def elapsedReached (p : Ps) : Bool := p.ovf || decide (p.threshold ≤ p.elapsed)

/-- A MAYPOLL is granted: WAITING, and the threshold is reached (42_poll_scheduler R163). -/
def pollGranted (p : Ps) : Bool := p.mode == .waiting && elapsedReached p

/-- The banks differ in some byte (41_report_store R140). -/
def banksDiffer (r : Rs) : Bool := decide (r.lastBuilt ≠ r.lastSent)

/-- CHANGED's answer: FIRST, or the banks differ (41_report_store R140). -/
def reportChanged (r : Rs) : Bool := r.first || banksDiffer r

/-- The elapsed counter is at its last value before it wraps (42_poll_scheduler R160). -/
def elapsedAtMax (c : Params) (p : Ps) : Bool := p.elapsed == 2 ^ c.elapsedW - 1

end Sys2Proof.Machine
end

