-- ==== Sys2Proof/Machine/Operands.lean ====
section
/-! DEFINITION. The operand forms of the commands (30_encoding R81, R85) and the forms in which DATA carries a
value (30_encoding R82, R91, R92). -/

namespace Sys2Proof.Machine

/-- The idx operand: byte `i` of a report bank (30_encoding R85, R86). -/
def reportByte (r : Report) (i : BitVec 3) : Byte := r[i.toNat]'i.isLt

/-- `zext_DATA_W(v)` for a byte (30_encoding R82): the same natural number. -/
def zextByte (b : Byte) : Nat := b.toNat

/-- A single bit in DATA[0] (30_encoding R86). -/
def bitData (b : Bool) : Nat := b.toNat

/-- DATA of RDSCHED: DATA[0] = ps_state, DATA[1] = OVF (30_encoding R92). -/
def schedData (p : Ps) : Nat := bitData (p.mode == .ready) + 2 * bitData p.ovf

/-- DATA of RDSLV: DATA[0] = data_out, DATA[1] = latch_lvl, DATA[2] = clk_lvl (30_encoding R91). -/
def slaveData (x : Sl) : Nat := bitData x.dataOut + 2 * bitData x.latchLvl + 4 * bitData x.clkLvl

end Sys2Proof.Machine
end

