-- ==== Sys2Proof/Machine/ReportStore.lean ====
section
/-! DEFINITION. The report store, RS (41_report_store): CHANGED, BUILD, RDBUILT and RDSENT. -/

namespace Sys2Proof.Machine

/-- CHANGED: the answer is taken before FIRST is cleared (41_report_store R140). -/
def execChanged (s : State) : Host.Outcome State Fault Refusal :=
  onPort s fun s => respond .ok (bitData (reportChanged s.rs)) { s with rs := { s.rs with first := false } }

/-- BUILD: all 8 bytes of lastBuilt are copied in one step (41_report_store R141). -/
def execBuild (s : State) : Host.Outcome State Fault Refusal :=
  onPort s fun s => respond .ok 0 { s with rs := { s.rs with lastSent := s.rs.lastBuilt } }

/-- RDBUILT i (41_report_store R142). -/
def execRdbuilt (i : BitVec 3) (s : State) : Host.Outcome State Fault Refusal :=
  onPort s fun s => respond .ok (zextByte (reportByte s.rs.lastBuilt i)) s

/-- RDSENT i (41_report_store R143). -/
def execRdsent (i : BitVec 3) (s : State) : Host.Outcome State Fault Refusal :=
  onPort s fun s => respond .ok (zextByte (reportByte s.rs.lastSent i)) s

end Sys2Proof.Machine
end

