-- ==== Sys2Proof/Machine/Scheduler.lean ====
section
/-! DEFINITION. The adaptive poll scheduler, PS (42_poll_scheduler): its part of a TICK, and the commands MAYPOLL,
RDTHR, RDELAPSED and RDSCHED. HOSTPOLLED stands in Ops.lean, since SL raises it. -/

namespace Sys2Proof.Machine

/-- PS's part of a TICK step: elapsed counts, and a wrap sets OVF (42_poll_scheduler R160). -/
def psTick (s : State) : State :=
  if elapsedAtMax s.cfg s.ps then { s with ps := { s.ps with elapsed := 0, ovf := true } }
  else { s with ps := { s.ps with elapsed := s.ps.elapsed + 1 } }

/-- MAYPOLL: one test and one write, in one step (42_poll_scheduler R163, 92 D27). -/
def execMaypoll (s : State) : Host.Outcome State Fault Refusal :=
  onPort s fun s =>
    if pollGranted s.ps then respond .ok 1 { s with ps := { s.ps with mode := .ready } } else respond .ok 0 s

/-- RDTHR (42_poll_scheduler R164). -/
def execRdthr (s : State) : Host.Outcome State Fault Refusal :=
  onPort s fun s => respond .ok s.ps.threshold s

/-- RDELAPSED: the counter as it stands, wrapped or not (42_poll_scheduler R165). -/
def execRdelapsed (s : State) : Host.Outcome State Fault Refusal :=
  onPort s fun s => respond .ok s.ps.elapsed s

/-- RDSCHED (42_poll_scheduler R166). -/
def execRdsched (s : State) : Host.Outcome State Fault Refusal :=
  onPort s fun s => respond .ok (schedData s.ps) s

end Sys2Proof.Machine
end

