-- ==== Sys2Proof/Machine/Slave.lean ====
section
/-! DEFINITION. The downstream slave emulator, SL (43_slave_emulator): SETBYTE, RDBYTE and RDSLV, the latch and clock
events, the service of a pending latch, and the watchdog. -/

namespace Sys2Proof.Machine

/-- SETBYTE b (43_slave_emulator R180). -/
def execSetbyte (b : Byte) (s : State) : Host.Outcome State Fault Refusal :=
  onPort s fun s => respond .ok 0 { s with sl := { s.sl with shiftByte := b } }

/-- RDBYTE (43_slave_emulator R181). -/
def execRdbyte (s : State) : Host.Outcome State Fault Refusal :=
  onPort s fun s => respond .ok (zextByte s.sl.shiftByte) s

/-- RDSLV (43_slave_emulator R182). -/
def execRdslv (s : State) : Host.Outcome State Fault Refusal :=
  onPort s fun s => respond .ok (slaveData s.sl) s

/-- SL's rule for LATCH_RISE, latch_lvl already 1: the edge is recorded in the atomic section (R186), starts a
transaction when SL is idle (R185), and aborts and restarts one in SL_SHIFT (R189, LATCH_ABORT). -/
def latchRise (s : State) : State :=
  if atomicSection s then { s with sl := { s.sl with lpend := true } }
  else
    match s.sl.phase with
    | .idle => startTransaction s
    | .waitLatchFall => s
    | .shift => startTransaction (hostPolledOnAbort (labelEnd .latchAbort s))

/-- SL's rule for LATCH_FALL, latch_lvl already 0 (43_slave_emulator R187). -/
def latchFall (s : State) : State :=
  match s.sl.phase with
  | .waitLatchFall => { s with sl := { s.sl with phase := .shift, wdt := s.cfg.wdtTicks } }
  | .idle => s
  | .shift => s

/-- SL's rule for CLK_FALL (43_slave_emulator R190, R191): the next bit, or the end of the transaction at the 8th
falling edge. -/
def clkFall (s : State) : State :=
  match s.sl.phase with
  | .shift =>
    if s.sl.pos = 0 then hostPolled (handlerReturn .completed s)
    else
      { s with
        sl := { s.sl with
          pos := s.sl.pos - 1
          dataOut := s.sl.sh.getLsbD (s.sl.pos - 1).val
          wdt := s.cfg.wdtTicks } }
  | .idle => s
  | .waitLatchFall => s

/-- latch_in is at `level`, and SL has seen it (43_slave_emulator R184). -/
def seeLatch (level : Bool) (s : State) : State :=
  { s with sl := { s.sl with latchLvl := level }, env := { s.env with latchIn := level } }

/-- clk_in is at `level`, and SL has seen it (43_slave_emulator R184). -/
def seeClk (level : Bool) (s : State) : State :=
  { s with sl := { s.sl with clkLvl := level }, env := { s.env with clkIn := level } }

/-- The host puts latch_in at `level` (43_slave_emulator R184): an event only if SL last saw another level; the level
is recorded, then the event's rule applies. -/
def latchIn (level : Bool) (s : State) : State :=
  if level = s.sl.latchLvl then seeLatch level s
  else if level then latchRise (seeLatch level s)
  else latchFall (seeLatch level s)

/-- The host puts clk_in at `level` (43_slave_emulator R184, R192): as for latch_in; a rising edge changes only
clk_lvl. -/
def clkIn (level : Bool) (s : State) : State :=
  if level = s.sl.clkLvl then seeClk level s
  else if level then seeClk level s
  else clkFall (seeClk level s)

/-- LATCH_SERVICE is enabled (43_slave_emulator R188). -/
def serviceEnabled (s : State) : Bool := s.sl.lpend && !atomicSection s && s.sl.phase == .idle

/-- SL's part of a TICK step: while SL is active the watchdog counts down, and at its last tick the transaction ends
by ClockTimeout (43_slave_emulator R193, R194). -/
def slTick (s : State) : State :=
  if s.sl.phase = .idle then s
  else if s.sl.wdt > 1 then { s with sl := { s.sl with wdt := s.sl.wdt - 1 } }
  else if s.sl.wdt = 1 then
    hostPolledOnAbort (handlerReturn .clockTimeout { s with sl := { s.sl with wdt := 0 } })
  else s

end Sys2Proof.Machine
end

