-- ==== Sys2Proof/Machine/Transceiver.lean ====
section
/-! DEFINITION. The upstream bus transceiver, UT (40_transceiver): the send waveform, the TICK rules of sending and
sampling, decoding, the decode step, PERI_DRIVE, and the commands INIT, POLL and PROBE. -/

namespace Sys2Proof.Machine

/-- SYM(b), the two segments of a bit (40_transceiver R112, 30_encoding R87). -/
def symbolSegs (c : Params) (b : Bool) : List Segment :=
  if b then [⟨.low, c.tShort⟩, ⟨.released, c.tLong⟩] else [⟨.low, c.tLong⟩, ⟨.released, c.tShort⟩]

/-- SEGS(frame, n): bits n-1 down to 0 of the frame, then the stop symbol (40_transceiver R112). -/
def frameSegs (c : Params) (frame : Nat) : Nat → List Segment
  | 0 => [⟨.low, c.tShort⟩]
  | n + 1 => symbolSegs c (frame.testBit n) ++ frameSegs c frame n

/-- The segment that goes on the wire first; the list is never empty. -/
def loadSegment (u : Ut) : List Segment → Ut
  | [] => { u with drive := .released, segLeft := 0, segs := [] }
  | g :: rest => { u with drive := g.drive, segLeft := g.ticks, segs := rest }

/-- The accept step of POLL and PROBE on UT: the atomic section begins (40_transceiver R111). -/
def beginSend (c : Params) (op : UtOp) (u : Ut) : Ut :=
  { loadSegment u (frameSegs c c.cmdFrame c.cmdLen) with
    op := op, samples := [], cnt := 0, timedOut := false, phase := .send }

/-- The accept step of POLL and PROBE: the command stays on the port until the decode step answers it
(40_transceiver R111, R121). -/
def acceptTransaction (op : UtOp) (word : Word) (s : State) : State :=
  { s with ut := beginSend s.cfg op s.ut, port := { cmdPending := some word, rsp := none } }

/-- TICK in UT_SEND (40_transceiver R113). -/
def sendTick (u : Ut) : Ut :=
  if u.segLeft > 1 then { u with segLeft := u.segLeft - 1 }
  else
    match u.segs with
    | g :: rest => { u with drive := g.drive, segLeft := g.ticks, segs := rest }
    | [] => { u with drive := .released, segLeft := 0, phase := .sample, cnt := 0 }

/-- TICK in UT_SAMPLE, with the level `line` read on ubus (40_transceiver R117). -/
def sampleTick (c : Params) (line : Bool) (u : Ut) : Ut :=
  if u.cnt = 0 then { u with curLevel := line, cnt := 1 }
  else if line = u.curLevel then
    if u.cnt = c.smax then { u with timedOut := true, phase := .decode } else { u with cnt := u.cnt + 1 }
  else if u.samples.length + 1 = nSamples then { u with samples := u.samples ++ [u.cnt], phase := .decode }
  else { u with samples := u.samples ++ [u.cnt], curLevel := line, cnt := 1 }

/-- UT's part of a TICK step (40_transceiver R113, R117). -/
def utTick (s : State) : State :=
  match s.ut.phase with
  | .send => { s with ut := sendTick s.ut }
  | .sample => { s with ut := sampleTick s.cfg (ubus s) s.ut }
  | .idle => s
  | .decode => s

/-- Bit k of the response: the low duration is shorter than the high duration that follows it
(40_transceiver R122, R123). Sample 0 is skipped. -/
def wireBit (samples : List Nat) (k : Nat) : Bool :=
  decide (samples.getD (2 * k + 1) 0 < samples.getD (2 * k + 2) 0)

/-- Wire bits base .. base+7 as a byte, the first one the most significant (40_transceiver R122). -/
def wireByte (samples : List Nat) (base : Nat) : Byte :=
  BitVec.ofNat 8 ((List.range 8).map fun b => (wireBit samples (base + b)).toNat * 2 ^ (7 - b)).sum

/-- Analog channel k, complemented iff INVERT_MASK[k] = 1 (40_transceiver R122, R124). -/
def channelByte (c : Params) (samples : List Nat) (k : Nat) : Byte :=
  if c.invertMask.getLsbD k then ~~~(wireByte samples (16 + 8 * k)) else wireByte samples (16 + 8 * k)

/-- DECODE (40_transceiver R122): a report, or none where the length is not N_SAMPLES. Nothing but the length is
validated (R125). -/
def decodeReport (c : Params) (samples : List Nat) : Option Report :=
  if samples.length = nSamples then
    some #v[wireByte samples 0, wireByte samples 8, channelByte c samples 0, channelByte c samples 1,
      channelByte c samples 2, channelByte c samples 3, channelByte c samples 4, channelByte c samples 5]
  else none

/-- What the decode step finds: a report, or the STATUS of the failure (40_transceiver R119). -/
def decodeVerdict (s : State) : Except Status Report :=
  if s.ut.timedOut then .error .receiveTimeout
  else
    match decodeReport s.cfg s.ut.samples with
    | some r => .ok r
    | none => .error .frameLengthMismatch

/-- The answer of a decode step: POLL stores a report and reports a failure; PROBE only says whether the frame
decoded (40_transceiver R119, R121). -/
def answerTransaction (op : UtOp) (verdict : Except Status Report) (s : State) : State :=
  match op, verdict with
  | .poll, .ok r => respond .ok 0 { s with rs := { s.rs with lastBuilt := r } }
  | .poll, .error e => respond e 0 s
  | .probe, .ok _ => respond .ok 1 s
  | .probe, .error _ => respond .ok 0 s

/-- The UT decode step (40_transceiver R119). -/
def utDecode (s : State) : State :=
  let t := answerTransaction s.ut.op (decodeVerdict s) s
  { t with ut := { t.ut with phase := .idle, samples := [], cnt := 0 } }

/-- The UT decode step is enabled: UT_DECODE, and the command gate is open (40_transceiver R119). -/
def decodeEnabled (s : State) : Bool := s.ut.phase == .decode && gateOpen s

/-- PERI_DRIVE(v) (40_transceiver R116). -/
def periDrive (v : Drive) (s : State) : State := { s with env := { s.env with periDrive := v } }

/-- INIT: the line is released (40_transceiver R110). -/
def execInit (s : State) : Host.Outcome State Fault Refusal :=
  onPort s fun s => respond .ok 0 { s with ut := { s.ut with drive := .released } }

/-- POLL, the accept step (40_transceiver R111). TICKs carry it on, and the decode step answers it. -/
def execPoll (s : State) : Host.Outcome State Fault Refusal :=
  onPort s (acceptTransaction .poll (encode .poll))

/-- PROBE, the accept step (40_transceiver R121). -/
def execProbe (s : State) : Host.Outcome State Fault Refusal :=
  onPort s (acceptTransaction .probe (encode .probe))

end Sys2Proof.Machine
end

