-- ==== Sys2Proof/Machine/Dispatch.lean ====
section
/-! DEFINITION. One arm per command: its step on the command port. -/

namespace Sys2Proof.Machine

def exec (i : Instr) (s : State) : Host.Outcome State Fault Refusal :=
  match i with
  | .init => Sys2Proof.Machine.execInit s
  | .poll => Sys2Proof.Machine.execPoll s
  | .probe => Sys2Proof.Machine.execProbe s
  | .changed => Sys2Proof.Machine.execChanged s
  | .build => Sys2Proof.Machine.execBuild s
  | .rdbuilt k => Sys2Proof.Machine.execRdbuilt k s
  | .rdsent k => Sys2Proof.Machine.execRdsent k s
  | .maypoll => Sys2Proof.Machine.execMaypoll s
  | .rdthr => Sys2Proof.Machine.execRdthr s
  | .rdelapsed => Sys2Proof.Machine.execRdelapsed s
  | .rdsched => Sys2Proof.Machine.execRdsched s
  | .setbyte b => Sys2Proof.Machine.execSetbyte b s
  | .rdbyte => Sys2Proof.Machine.execRdbyte s
  | .rdslv => Sys2Proof.Machine.execRdslv s

end Sys2Proof.Machine
end

