-- ==== Sys2Proof/Machine/Port.lean ====
section
/-! DEFINITION. The steps of the block and of the agents around it (20_memory R64, 30_encoding R98): a word is put on the
command port, the block takes the step it can, a TICK passes, a line changes, or the platform resets. One move is
one atomic step, and the schedule in the state says which comes next. -/

namespace Sys2Proof.Machine

/-- The controller puts a word on the command port (10_state R38). Words wait there in order (92 D7). -/
def putCommand (w : Word) (s : State) : State := { s with env := { s.env with cmds := s.env.cmds ++ [w] } }

/-- The port takes the word that waits, if it is ready: a legal word is executed, and any other is answered
ILLEGAL_COMMAND with no other effect (30_encoding R97). If it is not, the word waits (20_memory R62). -/
def acceptCommand (s : State) : Host.Outcome State Fault Refusal :=
  match s.env.cmds with
  | [] => .next s
  | w :: rest =>
    if portReady s then
      match decode w with
      | .ok i => exec i { s with env := { s.env with cmds := rest } }
      | .error _ => .next (respond .illegalCommand 0 { s with env := { s.env with cmds := rest } })
    else .next s

/-- The step the block can take: LATCH_SERVICE (43_slave_emulator R188), the UT decode step (40_transceiver R119), or the
acceptance of a command. The command gate lets at most one of them be enabled (20_memory R62, 60_exceptions R217). -/
def blockStep (s : State) : Host.Outcome State Fault Refusal :=
  if serviceEnabled s then .next (startTransaction s)
  else if decodeEnabled s then .next (utDecode s)
  else acceptCommand s

/-- A TICK: UT, then PS, then SL (42_poll_scheduler R160). -/
def tick (s : State) : State := slTick (psTick (utTick s))

/-- One move (30_encoding R98). -/
def perform (m : Move) (s : State) : Host.Outcome State Fault Refusal :=
  match m with
  | .tick => .next (tick s)
  | .peri v => .next (periDrive v s)
  | .latch level => .next (latchIn level s)
  | .clk level => .next (clkIn level s)
  | .command w => .next (putCommand w s)
  | .block => blockStep s
  | .reset => .next (resetBlock s)

/-- The next move of the schedule. Where the schedule is empty, nobody outside moves, and the block takes the step it can
(log 2). A configuration that breaks 00_scope R8 is refused (93 A21). -/
def advance (s : State) : Host.Outcome State Fault Refusal :=
  if s.cfg.valid then
    match s.env.moves with
    | [] => blockStep s
    | m :: rest => perform m { s with env := { s.env with moves := rest } }
  else .refused .badConfiguration

/-- `w` waits first on the command port, and the block is the next to move. -/
def presentWord (w : Word) (s : State) : State :=
  { s with env := { s.env with cmds := w :: s.env.cmds, moves := .block :: s.env.moves } }

end Sys2Proof.Machine
end

