-- ==== Sys2Proof/Machine/Step.lean ====
section
/-! DEFINITION. One step of the machine, and the placing of a command word where the next step takes it. -/

namespace Sys2Proof.Machine

/-- One step: the next move of the schedule (Machine/Port.lean). -/
def step (s : State) : Host.Outcome State Fault Refusal := advance s

/-- `s` with the table word `w` of `nbits` bits waiting first on the command port, and the block next to
move: where the port is ready, the very next step executes it. There is no
fetch: a command comes from outside (20_memory R73; log 3). -/
def State.withFetchWord (s : State) (nbits w : Nat) : State := presentWord (BitVec.ofNat 16 (w % 2 ^ nbits)) s

end Sys2Proof.Machine
end

