-- ==== Sys2Proof/Safety.lean ====
section
/-! DEFINITION. What a safe state is: a configuration the spec accepts, and the invariants the spec states of every
state that RESET can lead to. And what it means that a list of moves leads from one state to another. -/

namespace Sys2Proof.Machine

/-- The levels SL last saw are the levels on its inputs (43_slave_emulator R184). -/
def LinesAgree (s : State) : Prop := s.sl.latchLvl = s.env.latchIn ∧ s.sl.clkLvl = s.env.clkIn

/-- The widths of PS's registers (10_state R20, R28, R29). -/
def SchedulerInRange (s : State) : Prop :=
  s.ps.elapsed < 2 ^ s.cfg.elapsedW ∧ s.ps.threshold < 2 ^ s.cfg.elapsedW

/-- SL's invariants (43_slave_emulator R199), and the range of wdt (10_state R20). -/
def SlaveInvariant (s : State) : Prop :=
  (s.sl.phase = .waitLatchFall → s.sl.latchLvl = true) ∧
  (s.sl.phase = .idle → s.sl.dataOut = s.cfg.dataIdle) ∧
  (s.sl.phase ≠ .idle → 1 ≤ s.sl.wdt) ∧
  s.sl.wdt ≤ s.cfg.wdtTicks ∧
  (s.sl.lpend = true → s.sl.phase = .idle)

/-- SL is idle throughout the atomic section (20_memory R63). -/
def AtomicExcludesHandler (s : State) : Prop := atomicSection s = true → s.sl.phase = .idle

/-- UT drives the line low only while it sends (20_memory R75). -/
def LineOwnership (s : State) : Prop := s.ut.drive = .low → s.ut.phase = .send

/-- The ranges of UT's registers (10_state R20, R24, R43). -/
def TransceiverInRange (s : State) : Prop :=
  s.ut.segLeft ≤ s.cfg.tLong ∧
  s.ut.segs.length ≤ 2 * s.cfg.cmdLen + 1 ∧
  (∀ g ∈ s.ut.segs, 1 ≤ g.ticks ∧ g.ticks ≤ s.cfg.tLong) ∧
  s.ut.samples.length ≤ nSamples ∧
  (∀ n ∈ s.ut.samples, 1 ≤ n ∧ n ≤ s.cfg.smax) ∧
  s.ut.cnt ≤ s.cfg.smax

/-- What UT's phase says of its registers; in UT_DECODE, the sample list is full exactly when no timeout was seen
(40_transceiver R111, R113, R117, R118). -/
def PhaseInvariant (s : State) : Prop :=
  (s.ut.phase = .send → 1 ≤ s.ut.segLeft ∧ s.ut.timedOut = false ∧ s.ut.samples = []) ∧
  (s.ut.phase = .sample →
    s.ut.timedOut = false ∧ s.ut.samples.length < nSamples ∧ (s.ut.cnt = 0 → s.ut.samples = [])) ∧
  (s.ut.phase = .decode → (s.ut.samples.length = nSamples ↔ s.ut.timedOut = false))

/-- The command in progress is the POLL or PROBE that UT runs (10_state R20, cmd_pending), and DATA fits DATA_W bits
(30_encoding R82). -/
def PortInvariant (s : State) : Prop :=
  s.port.cmdPending =
    (if s.ut.phase = .idle then none
     else some (match s.ut.op with | .poll => encode .poll | .probe => encode .probe)) ∧
  (∀ r, s.port.rsp = some r → r.data < 2 ^ s.cfg.dataW)

/-- The invariant of every state a valid machine reaches from RESET. -/
def Inv (s : State) : Prop :=
  s.cfg.valid = true ∧ LinesAgree s ∧ SchedulerInRange s ∧ SlaveInvariant s ∧ AtomicExcludesHandler s ∧
  LineOwnership s ∧ TransceiverInRange s ∧ PhaseInvariant s ∧ PortInvariant s

/-- `s` with exactly these moves on the schedule. -/
def State.withMoves (s : State) (ms : List Move) : State := { s with env := { s.env with moves := ms } }

/-- The step of `s` in which `m` is the next move: it answers a next state, consumes that move, and the next state
has the property `P`, whatever moves come later. -/
def Does (m : Move) (s : State) (P : State → Prop) : Prop :=
  ∀ later, ∃ t, step (s.withMoves (m :: later)) = .next t ∧ t.env.moves = later ∧ P t

/-- The other thing an open-drain driver can do. -/
def otherDrive : Drive → Drive
  | .low => .released
  | .released => .low

/-- The moves of a peripheral that holds one level for each count of `ns` in turn, beginning with `v`. -/
def holdMoves (v : Drive) : List Nat → List Move
  | [] => []
  | n :: ns => .peri v :: (List.replicate n Move.tick ++ holdMoves (otherDrive v) ns)

/-- The moves of a peripheral that holds one level for each count of `ns` in turn, beginning with `v`, and changes
the level once more, so that the last count is closed (40_transceiver R120, outcome (a)). -/
def waveMoves (v : Drive) : List Nat → List Move
  | [] => [.peri v, .tick]
  | n :: ns => .peri v :: (List.replicate n Move.tick ++ waveMoves (otherDrive v) ns)

/-- The moves in which the host gives clock pulses, a falling edge first (30_encoding R95), with ticks after each edge:
for each pair, the ticks while the clock is low and the ticks while it is high. -/
def pulseMoves : List (Nat × Nat) → List Move
  | [] => []
  | (a, b) :: ps =>
    .clk false :: (List.replicate a Move.tick ++ .clk true :: (List.replicate b Move.tick ++ pulseMoves ps))

/-- The moves that begin a transaction: the latch rises, `a` ticks pass, the latch falls, `b` ticks pass. -/
def latchPulseMoves (a b : Nat) : List Move :=
  .latch true :: (List.replicate a Move.tick ++ .latch false :: List.replicate b Move.tick)

/-- Performing the moves `ms` one step after another leads from `s` to `t`. -/
def Leads (ms : List Move) (s t : State) : Prop :=
  Host.Core.run Sys2Proof.core ms.length (s.withMoves ms) = .next t

end Sys2Proof.Machine
end

