-- ==== Sys2Proof/Laws/State.lean ====
section
/-! SUPPORT. What each shared update of the state leaves alone and what it writes, field by field. -/

namespace Sys2Proof.Machine

@[simp] theorem respond_cfg (r : Status) (d : Nat) (s : State) : (respond r d s).cfg = s.cfg := rfl
@[simp] theorem respond_ut (r : Status) (d : Nat) (s : State) : (respond r d s).ut = s.ut := rfl
@[simp] theorem respond_rs (r : Status) (d : Nat) (s : State) : (respond r d s).rs = s.rs := rfl
@[simp] theorem respond_ps (r : Status) (d : Nat) (s : State) : (respond r d s).ps = s.ps := rfl
@[simp] theorem respond_sl (r : Status) (d : Nat) (s : State) : (respond r d s).sl = s.sl := rfl
@[simp] theorem respond_env (r : Status) (d : Nat) (s : State) : (respond r d s).env = s.env := rfl
@[simp] theorem respond_hist (r : Status) (d : Nat) (s : State) : (respond r d s).hist = s.hist := rfl
@[simp] theorem respond_cmdPending (r : Status) (d : Nat) (s : State) : (respond r d s).port.cmdPending = none := rfl
@[simp] theorem respond_rsp (r : Status) (d : Nat) (s : State) : (respond r d s).port.rsp = some ⟨r, d⟩ := rfl

@[simp] theorem hostPolled_cfg (s : State) : (hostPolled s).cfg = s.cfg := rfl
@[simp] theorem hostPolled_ut (s : State) : (hostPolled s).ut = s.ut := rfl
@[simp] theorem hostPolled_rs (s : State) : (hostPolled s).rs = s.rs := rfl
@[simp] theorem hostPolled_sl (s : State) : (hostPolled s).sl = s.sl := rfl
@[simp] theorem hostPolled_port (s : State) : (hostPolled s).port = s.port := rfl
@[simp] theorem hostPolled_env (s : State) : (hostPolled s).env = s.env := rfl
@[simp] theorem hostPolled_elapsed (s : State) : (hostPolled s).ps.elapsed = 0 := rfl
@[simp] theorem hostPolled_ovf (s : State) : (hostPolled s).ps.ovf = false := rfl
@[simp] theorem hostPolled_mode (s : State) : (hostPolled s).ps.mode = .waiting := rfl
@[simp] theorem hostPolled_hostPolls (s : State) : (hostPolled s).hist.hostPolls = s.hist.hostPolls + 1 := rfl
@[simp] theorem hostPolled_transEnd (s : State) : (hostPolled s).hist.transEnd = s.hist.transEnd := rfl

@[simp] theorem startTransaction_cfg (s : State) : (startTransaction s).cfg = s.cfg := rfl
@[simp] theorem startTransaction_ut (s : State) : (startTransaction s).ut = s.ut := rfl
@[simp] theorem startTransaction_rs (s : State) : (startTransaction s).rs = s.rs := rfl
@[simp] theorem startTransaction_ps (s : State) : (startTransaction s).ps = s.ps := rfl
@[simp] theorem startTransaction_port (s : State) : (startTransaction s).port = s.port := rfl
@[simp] theorem startTransaction_env (s : State) : (startTransaction s).env = s.env := rfl
@[simp] theorem startTransaction_hist (s : State) : (startTransaction s).hist = s.hist := rfl
@[simp] theorem startTransaction_shiftByte (s : State) : (startTransaction s).sl.shiftByte = s.sl.shiftByte := rfl
@[simp] theorem startTransaction_sh (s : State) : (startTransaction s).sl.sh = s.sl.shiftByte := rfl
@[simp] theorem startTransaction_pos (s : State) : (startTransaction s).sl.pos = 7 := rfl
@[simp] theorem startTransaction_dataOut (s : State) : (startTransaction s).sl.dataOut = s.sl.shiftByte.getLsbD 7 := rfl
@[simp] theorem startTransaction_wdt (s : State) : (startTransaction s).sl.wdt = s.cfg.wdtTicks := rfl
@[simp] theorem startTransaction_lpend (s : State) : (startTransaction s).sl.lpend = false := rfl
@[simp] theorem startTransaction_latchLvl (s : State) : (startTransaction s).sl.latchLvl = s.sl.latchLvl := rfl
@[simp] theorem startTransaction_clkLvl (s : State) : (startTransaction s).sl.clkLvl = s.sl.clkLvl := rfl
theorem startTransaction_phase (s : State) :
    (startTransaction s).sl.phase = if s.sl.latchLvl then .waitLatchFall else .shift := rfl

@[simp] theorem labelEnd_cfg (l : EndLabel) (s : State) : (labelEnd l s).cfg = s.cfg := rfl
@[simp] theorem labelEnd_ut (l : EndLabel) (s : State) : (labelEnd l s).ut = s.ut := rfl
@[simp] theorem labelEnd_rs (l : EndLabel) (s : State) : (labelEnd l s).rs = s.rs := rfl
@[simp] theorem labelEnd_ps (l : EndLabel) (s : State) : (labelEnd l s).ps = s.ps := rfl
@[simp] theorem labelEnd_sl (l : EndLabel) (s : State) : (labelEnd l s).sl = s.sl := rfl
@[simp] theorem labelEnd_port (l : EndLabel) (s : State) : (labelEnd l s).port = s.port := rfl
@[simp] theorem labelEnd_env (l : EndLabel) (s : State) : (labelEnd l s).env = s.env := rfl
@[simp] theorem labelEnd_transEnd (l : EndLabel) (s : State) : (labelEnd l s).hist.transEnd = some l := rfl
@[simp] theorem labelEnd_hostPolls (l : EndLabel) (s : State) : (labelEnd l s).hist.hostPolls = s.hist.hostPolls := rfl

@[simp] theorem seeLatch_cfg (v : Bool) (s : State) : (seeLatch v s).cfg = s.cfg := rfl
@[simp] theorem seeLatch_ut (v : Bool) (s : State) : (seeLatch v s).ut = s.ut := rfl
@[simp] theorem seeLatch_rs (v : Bool) (s : State) : (seeLatch v s).rs = s.rs := rfl
@[simp] theorem seeLatch_ps (v : Bool) (s : State) : (seeLatch v s).ps = s.ps := rfl
@[simp] theorem seeLatch_port (v : Bool) (s : State) : (seeLatch v s).port = s.port := rfl
@[simp] theorem seeLatch_hist (v : Bool) (s : State) : (seeLatch v s).hist = s.hist := rfl
@[simp] theorem seeLatch_sl (v : Bool) (s : State) : (seeLatch v s).sl = { s.sl with latchLvl := v } := rfl
@[simp] theorem seeLatch_env (v : Bool) (s : State) : (seeLatch v s).env = { s.env with latchIn := v } := rfl

@[simp] theorem seeClk_cfg (v : Bool) (s : State) : (seeClk v s).cfg = s.cfg := rfl
@[simp] theorem seeClk_ut (v : Bool) (s : State) : (seeClk v s).ut = s.ut := rfl
@[simp] theorem seeClk_rs (v : Bool) (s : State) : (seeClk v s).rs = s.rs := rfl
@[simp] theorem seeClk_ps (v : Bool) (s : State) : (seeClk v s).ps = s.ps := rfl
@[simp] theorem seeClk_port (v : Bool) (s : State) : (seeClk v s).port = s.port := rfl
@[simp] theorem seeClk_hist (v : Bool) (s : State) : (seeClk v s).hist = s.hist := rfl
@[simp] theorem seeClk_sl (v : Bool) (s : State) : (seeClk v s).sl = { s.sl with clkLvl := v } := rfl
@[simp] theorem seeClk_env (v : Bool) (s : State) : (seeClk v s).env = { s.env with clkIn := v } := rfl

@[simp] theorem handlerReturn_cfg (l : EndLabel) (s : State) : (handlerReturn l s).cfg = s.cfg := rfl
@[simp] theorem handlerReturn_ut (l : EndLabel) (s : State) : (handlerReturn l s).ut = s.ut := rfl
@[simp] theorem handlerReturn_rs (l : EndLabel) (s : State) : (handlerReturn l s).rs = s.rs := rfl
@[simp] theorem handlerReturn_ps (l : EndLabel) (s : State) : (handlerReturn l s).ps = s.ps := rfl
@[simp] theorem handlerReturn_port (l : EndLabel) (s : State) : (handlerReturn l s).port = s.port := rfl
@[simp] theorem handlerReturn_env (l : EndLabel) (s : State) : (handlerReturn l s).env = s.env := rfl
@[simp] theorem handlerReturn_shiftByte (l : EndLabel) (s : State) : (handlerReturn l s).sl.shiftByte = s.sl.shiftByte := rfl
@[simp] theorem handlerReturn_sh (l : EndLabel) (s : State) : (handlerReturn l s).sl.sh = s.sl.sh := rfl
@[simp] theorem handlerReturn_pos (l : EndLabel) (s : State) : (handlerReturn l s).sl.pos = s.sl.pos := rfl
@[simp] theorem handlerReturn_dataOut (l : EndLabel) (s : State) : (handlerReturn l s).sl.dataOut = s.cfg.dataIdle := rfl
@[simp] theorem handlerReturn_wdt (l : EndLabel) (s : State) : (handlerReturn l s).sl.wdt = s.sl.wdt := rfl
@[simp] theorem handlerReturn_lpend (l : EndLabel) (s : State) : (handlerReturn l s).sl.lpend = s.sl.lpend := rfl
@[simp] theorem handlerReturn_latchLvl (l : EndLabel) (s : State) : (handlerReturn l s).sl.latchLvl = s.sl.latchLvl := rfl
@[simp] theorem handlerReturn_clkLvl (l : EndLabel) (s : State) : (handlerReturn l s).sl.clkLvl = s.sl.clkLvl := rfl
@[simp] theorem handlerReturn_phase (l : EndLabel) (s : State) : (handlerReturn l s).sl.phase = .idle := rfl
@[simp] theorem handlerReturn_transEnd (l : EndLabel) (s : State) : (handlerReturn l s).hist.transEnd = some l := rfl
@[simp] theorem handlerReturn_hostPolls (l : EndLabel) (s : State) : (handlerReturn l s).hist.hostPolls = s.hist.hostPolls := rfl

@[simp] theorem acceptTransaction_cfg (o : UtOp) (w : Word) (s : State) : (acceptTransaction o w s).cfg = s.cfg := rfl
@[simp] theorem acceptTransaction_rs (o : UtOp) (w : Word) (s : State) : (acceptTransaction o w s).rs = s.rs := rfl
@[simp] theorem acceptTransaction_ps (o : UtOp) (w : Word) (s : State) : (acceptTransaction o w s).ps = s.ps := rfl
@[simp] theorem acceptTransaction_sl (o : UtOp) (w : Word) (s : State) : (acceptTransaction o w s).sl = s.sl := rfl
@[simp] theorem acceptTransaction_env (o : UtOp) (w : Word) (s : State) : (acceptTransaction o w s).env = s.env := rfl
@[simp] theorem acceptTransaction_hist (o : UtOp) (w : Word) (s : State) : (acceptTransaction o w s).hist = s.hist := rfl
@[simp] theorem acceptTransaction_ut (o : UtOp) (w : Word) (s : State) : (acceptTransaction o w s).ut = beginSend s.cfg o s.ut := rfl
@[simp] theorem acceptTransaction_port (o : UtOp) (w : Word) (s : State) : (acceptTransaction o w s).port = ⟨some w, none⟩ := rfl

@[simp] theorem periDrive_cfg (v : Drive) (s : State) : (periDrive v s).cfg = s.cfg := rfl
@[simp] theorem periDrive_ut (v : Drive) (s : State) : (periDrive v s).ut = s.ut := rfl
@[simp] theorem periDrive_rs (v : Drive) (s : State) : (periDrive v s).rs = s.rs := rfl
@[simp] theorem periDrive_ps (v : Drive) (s : State) : (periDrive v s).ps = s.ps := rfl
@[simp] theorem periDrive_sl (v : Drive) (s : State) : (periDrive v s).sl = s.sl := rfl
@[simp] theorem periDrive_port (v : Drive) (s : State) : (periDrive v s).port = s.port := rfl
@[simp] theorem periDrive_hist (v : Drive) (s : State) : (periDrive v s).hist = s.hist := rfl
@[simp] theorem periDrive_level (v : Drive) (s : State) : (periDrive v s).env.periDrive = v := rfl

@[simp] theorem putCommand_cfg (w : Word) (s : State) : (putCommand w s).cfg = s.cfg := rfl
@[simp] theorem putCommand_ut (w : Word) (s : State) : (putCommand w s).ut = s.ut := rfl
@[simp] theorem putCommand_rs (w : Word) (s : State) : (putCommand w s).rs = s.rs := rfl
@[simp] theorem putCommand_ps (w : Word) (s : State) : (putCommand w s).ps = s.ps := rfl
@[simp] theorem putCommand_sl (w : Word) (s : State) : (putCommand w s).sl = s.sl := rfl
@[simp] theorem putCommand_port (w : Word) (s : State) : (putCommand w s).port = s.port := rfl
@[simp] theorem putCommand_hist (w : Word) (s : State) : (putCommand w s).hist = s.hist := rfl
@[simp] theorem putCommand_cmds (w : Word) (s : State) : (putCommand w s).env.cmds = s.env.cmds ++ [w] := rfl
@[simp] theorem putCommand_moves (w : Word) (s : State) : (putCommand w s).env.moves = s.env.moves := rfl

@[simp] theorem resetBlock_cfg (s : State) : (resetBlock s).cfg = s.cfg := rfl
@[simp] theorem resetBlock_env (s : State) : (resetBlock s).env = s.env := rfl

@[simp] theorem State.withMoves_cfg (s : State) (ms : List Move) : (s.withMoves ms).cfg = s.cfg := rfl
@[simp] theorem State.withMoves_ut (s : State) (ms : List Move) : (s.withMoves ms).ut = s.ut := rfl
@[simp] theorem State.withMoves_rs (s : State) (ms : List Move) : (s.withMoves ms).rs = s.rs := rfl
@[simp] theorem State.withMoves_ps (s : State) (ms : List Move) : (s.withMoves ms).ps = s.ps := rfl
@[simp] theorem State.withMoves_sl (s : State) (ms : List Move) : (s.withMoves ms).sl = s.sl := rfl
@[simp] theorem State.withMoves_port (s : State) (ms : List Move) : (s.withMoves ms).port = s.port := rfl
@[simp] theorem State.withMoves_hist (s : State) (ms : List Move) : (s.withMoves ms).hist = s.hist := rfl
@[simp] theorem State.withMoves_moves (s : State) (ms : List Move) : (s.withMoves ms).env.moves = ms := rfl
@[simp] theorem State.withMoves_cmds (s : State) (ms : List Move) : (s.withMoves ms).env.cmds = s.env.cmds := rfl
@[simp] theorem State.withMoves_withMoves (s : State) (ms ns : List Move) :
    (s.withMoves ms).withMoves ns = s.withMoves ns := rfl

end Sys2Proof.Machine
end

