-- ==== Sys2Proof/Laws/Ops.lean ====
section
/-! SUPPORT. What each shared operation can do, said once: the port, HOSTPOLLED, the parts of a TICK, one move, and a
run over a list of moves. -/

namespace Sys2Proof.Machine

/-- The constraints of 00_scope R8, as one conjunction. -/
theorem valid_iff (c : Params) :
    c.valid = true ↔
      (1 ≤ c.tShort ∧ c.tShort < c.tLong) ∧ 1 ≤ c.sampleW ∧ c.pollDur + c.margin < 2 ^ c.elapsedW ∧
      c.defaultThr < 2 ^ c.elapsedW ∧ c.minIdle < 2 ^ c.elapsedW ∧ 1 ≤ c.wdtTicks ∧
      (c.invertMask.getLsbD 4 && c.invertMask.getLsbD 5) = true := by
  simp only [Params.valid, Params.flaws, List.isEmpty_iff, List.append_eq_nil_iff, ite_eq_left_iff,
    List.cons_ne_nil, imp_false, not_not, and_assoc]

theorem portReady_iff (s : State) :
    portReady s = true ↔
      s.sl.phase = .idle ∧ s.sl.lpend = false ∧ s.ut.phase = .idle ∧ s.port.cmdPending = none := by
  simp [portReady, gateOpen, and_assoc]

theorem onPort_ready {s : State} (f : State → State) (h : portReady s = true) : onPort s f = .next (f s) := by
  simp [onPort, h]

theorem onPort_waits {s : State} (f : State → State) (h : portReady s = false) : onPort s f = .next s := by
  simp [onPort, h]

/-- A command that is not accepted has no effect. -/
theorem exec_waits (i : Instr) {s : State} (h : portReady s = false) : exec i s = .next s := by
  cases i <;> simp only [exec, execInit, execPoll, execProbe, execChanged, execBuild, execRdbuilt, execRdsent,
    execMaypoll, execRdthr, execRdelapsed, execRdsched, execSetbyte, execRdbyte, execRdslv, onPort_waits _ h]

/-- Every command answers a next state, in every state. -/
theorem exec_next (i : Instr) (s : State) : ∃ t, exec i s = .next t := by
  cases i <;> exact ⟨_, rfl⟩

/-- The acceptance of a command answers a next state, in every state. -/
theorem acceptCommand_next (s : State) : ∃ t, acceptCommand s = .next t := by
  simp only [acceptCommand]
  split
  · exact ⟨_, rfl⟩
  · split
    · split
      · exact exec_next _ _
      · exact ⟨_, rfl⟩
    · exact ⟨_, rfl⟩

/-- The block's step answers a next state, in every state. -/
theorem blockStep_next (s : State) : ∃ t, blockStep s = .next t := by
  simp only [blockStep]
  split
  · exact ⟨_, rfl⟩
  · split
    · exact ⟨_, rfl⟩
    · exact acceptCommand_next s

/-- Every move answers a next state, in every state. -/
theorem perform_next (m : Move) (s : State) : ∃ t, perform m s = .next t := by
  cases m with
  | block => exact blockStep_next s
  | _ => exact ⟨_, rfl⟩

/-- Where the port is ready, no step of the block's own is enabled. -/
theorem blockStep_ready {s : State} (h : portReady s = true) : blockStep s = acceptCommand s := by
  obtain ⟨-, hl, hu, -⟩ := (portReady_iff s).1 h
  simp [blockStep, serviceEnabled, decodeEnabled, hl, hu]

/-- HOSTPOLLED on an abort happens, or nothing does. -/
theorem hostPolledOnAbort_cases (s : State) :
    (s.cfg.recordOnAbort = true ∧ hostPolledOnAbort s = hostPolled s) ∨
    (s.cfg.recordOnAbort = false ∧ hostPolledOnAbort s = s) := by
  cases h : s.cfg.recordOnAbort <;> simp [hostPolledOnAbort, h]

/-- The threshold that HOSTPOLLED leaves is the old one, the default, or the computed value, which is a true
difference and at least the floor (42_poll_scheduler R162, R170). -/
theorem hostPolled_threshold_cases (s : State) :
    (hostPolled s).ps.threshold = s.ps.threshold ∨ (hostPolled s).ps.threshold = s.cfg.defaultThr ∨
    (s.cfg.pollDur + s.cfg.margin < s.ps.elapsed ∧
      (hostPolled s).ps.threshold = s.ps.elapsed - s.cfg.pollDur - s.cfg.margin) := by
  simp only [hostPolled]
  split_ifs with h1 h2 h3 h4 <;> simp
  exact Or.inr (Or.inr h3)

/-- A valid machine with a move on its schedule performs that move. -/
theorem step_move {s : State} {m : Move} {rest : List Move} (hv : s.cfg.valid = true) :
    step (s.withMoves (m :: rest)) = perform m (s.withMoves rest) := by
  simp [step, advance, hv, State.withMoves]

/-- A valid machine with nothing on its schedule takes the block's step. -/
theorem step_quiet {s : State} (hv : s.cfg.valid = true) (hm : s.env.moves = []) : step s = blockStep s := by
  simp [step, advance, hv, hm]

/-- The rest of the schedule takes no part in a TICK. -/
theorem tick_withMoves (ms : List Move) (s : State) : tick (s.withMoves ms) = (tick s).withMoves ms := by
  have ut : utTick (s.withMoves ms) = (utTick s).withMoves ms := by
    simp only [utTick, State.withMoves_ut]
    split <;> rfl
  have ps (s : State) : psTick (s.withMoves ms) = (psTick s).withMoves ms := by
    by_cases h : elapsedAtMax s.cfg s.ps = true <;> simp [psTick, h] <;> rfl
  have sl (s : State) : slTick (s.withMoves ms) = (slTick s).withMoves ms := by
    by_cases h1 : s.sl.phase = .idle
    · simp [slTick, h1]
    · by_cases h2 : s.sl.wdt > 1
      · simp [slTick, h1, h2]; rfl
      · by_cases h3 : s.sl.wdt = 1 <;> by_cases h4 : s.cfg.recordOnAbort = true <;>
          simp [slTick, h1, h2, h3, h4, hostPolledOnAbort] <;> rfl
  rw [tick, ut, ps, sl, tick]

/-- The rest of the schedule takes no part in an event of the host. -/
theorem latchIn_withMoves (v : Bool) (ms : List Move) (s : State) :
    latchIn v (s.withMoves ms) = (latchIn v s).withMoves ms := by
  cases v <;> cases hl : s.sl.latchLvl <;> cases ha : s.ut.phase <;> cases hp : s.sl.phase <;>
    cases hr : s.cfg.recordOnAbort <;>
    simp [latchIn, hl, hp, latchRise, latchFall, atomicSection, ha, hostPolledOnAbort, hr] <;> rfl

theorem clkIn_withMoves (v : Bool) (ms : List Move) (s : State) :
    clkIn v (s.withMoves ms) = (clkIn v s).withMoves ms := by
  by_cases h0 : s.sl.pos = 0 <;>
    cases v <;> cases hl : s.sl.clkLvl <;> cases hp : s.sl.phase <;>
    simp [clkIn, hl, hp, clkFall, h0] <;> rfl

/-- The rest of the schedule takes no part in a command. -/
theorem exec_withMoves {i : Instr} {s t : State} (ms : List Move) (h : exec i s = .next t) :
    exec i (s.withMoves ms) = .next (t.withMoves ms) := by
  cases hr : portReady s with
  | false =>
    rw [exec_waits i hr] at h
    cases h
    exact exec_waits i hr
  | true =>
    have hr' : portReady (s.withMoves ms) = true := hr
    cases hg : pollGranted s.ps <;> cases i <;>
      simp only [exec, execInit, execPoll, execProbe, execChanged, execBuild, execRdbuilt, execRdsent, execMaypoll,
        execRdthr, execRdelapsed, execRdsched, execSetbyte, execRdbyte, execRdslv, onPort_ready _ hr,
        onPort_ready _ hr', State.withMoves_ps, hg] at h ⊢ <;>
      cases h <;> rfl

theorem blockStep_withMoves {s t : State} (ms : List Move) (h : blockStep s = .next t) :
    blockStep (s.withMoves ms) = .next (t.withMoves ms) := by
  have h1 : serviceEnabled (s.withMoves ms) = serviceEnabled s := rfl
  have h2 : decodeEnabled (s.withMoves ms) = decodeEnabled s := rfl
  have h3 : decodeVerdict (s.withMoves ms) = decodeVerdict s := rfl
  have h4 : portReady (s.withMoves ms) = portReady s := rfl
  simp only [blockStep, h1, h2] at h ⊢
  split_ifs at h ⊢
  · cases h
    rfl
  · cases h
    simp only [utDecode, h3, State.withMoves_ut]
    cases s.ut.op <;> cases decodeVerdict s <;> rfl
  · simp only [acceptCommand, State.withMoves_cmds, h4] at h ⊢
    split at h
    · cases h
      rfl
    · split_ifs at h ⊢
      · split at h
        · exact exec_withMoves ms h
        · cases h
          rfl
      · cases h
        rfl

/-- A move whose step is a function of the state, in which the rest of the schedule takes no part. -/
theorem does_of_perform {m : Move} {s : State} {P : State → Prop} {f : State → State} (hv : s.cfg.valid = true)
    (hp : ∀ s, perform m s = .next (f s)) (hw : ∀ ms, f (s.withMoves ms) = (f s).withMoves ms)
    (h : ∀ later, P ((f s).withMoves later)) : Does m s P := fun later =>
  ⟨(f s).withMoves later, by rw [step_move hv, hp, hw], rfl, h later⟩

theorem does_tick {s : State} {P : State → Prop} (hv : s.cfg.valid = true)
    (h : ∀ later, P ((tick s).withMoves later)) : Does .tick s P :=
  does_of_perform hv (fun _ => rfl) (fun ms => tick_withMoves ms s) h

theorem does_latch {s : State} {v : Bool} {P : State → Prop} (hv : s.cfg.valid = true)
    (h : ∀ later, P ((latchIn v s).withMoves later)) : Does (.latch v) s P :=
  does_of_perform hv (fun _ => rfl) (fun ms => latchIn_withMoves v ms s) h

theorem does_clk {s : State} {v : Bool} {P : State → Prop} (hv : s.cfg.valid = true)
    (h : ∀ later, P ((clkIn v s).withMoves later)) : Does (.clk v) s P :=
  does_of_perform hv (fun _ => rfl) (fun ms => clkIn_withMoves v ms s) h

theorem does_block {s t : State} {P : State → Prop} (hv : s.cfg.valid = true) (hb : blockStep s = .next t)
    (h : ∀ later, P (t.withMoves later)) : Does .block s P := fun later =>
  ⟨t.withMoves later, by rw [step_move hv]; exact blockStep_withMoves later hb, rfl, h later⟩

theorem does_command {s : State} {w : Word} {P : State → Prop} (hv : s.cfg.valid = true)
    (h : ∀ later, P ((putCommand w s).withMoves later)) : Does (.command w) s P :=
  does_of_perform hv (fun _ => rfl) (fun _ => rfl) h

theorem does_reset {s : State} {P : State → Prop} (hv : s.cfg.valid = true)
    (h : ∀ later, P ((resetBlock s).withMoves later)) : Does .reset s P :=
  does_of_perform hv (fun _ => rfl) (fun _ => rfl) h

theorem does_peri {s : State} {v : Drive} {P : State → Prop} (hv : s.cfg.valid = true)
    (h : ∀ later, P ((periDrive v s).withMoves later)) : Does (.peri v) s P :=
  does_of_perform hv (fun _ => rfl) (fun _ => rfl) h

/-- One step that performs the move at the head of the schedule. -/
theorem core_step_move {s : State} {m : Move} {rest : List Move} (hv : s.cfg.valid = true) :
    Host.Core.step Sys2Proof.core (s.withMoves (m :: rest)) = perform m (s.withMoves rest) := step_move hv

/-- One move and then the rest of the run. -/
theorem leads_cons {m : Move} {ms : List Move} {s t u : State} (hv : s.cfg.valid = true)
    (hm : perform m (s.withMoves ms) = .next (t.withMoves ms)) (hr : Leads ms t u) : Leads (m :: ms) s u := by
  simp only [Leads, List.length_cons, Host.Core.run, core_step_move hv, hm]
  exact hr

theorem leads_nil (s : State) : Leads [] s (s.withMoves []) := rfl

end Sys2Proof.Machine
end

