-- ==== Sys2Proof/Laws/Encoding.lean ====
section
/-! SUPPORT. Every command is well formed, and every script line that assembles is. -/

namespace Sys2Proof

/-- The operand types admit no ill-formed command (20_memory R70). -/
theorem instr_wellFormed (i : Instr) : i.wellFormed = true := by
  cases i <;> simp [Instr.wellFormed, Instr.line, ScriptLine.wellFormed, Mnemonic.form] <;> omega

/-- OPC of a word made of two bytes. -/
theorem opcOf_append (hi lo : Byte) : opcOf (hi ++ lo) = hi := by
  simpa [opcOf] using BitVec.extractLsb'_append_eq_left (a := hi) (b := lo)

/-- ARG of a word made of two bytes. -/
theorem argOf_append (hi lo : Byte) : argOf (hi ++ lo) = lo := by
  simpa [argOf] using BitVec.extractLsb'_append_eq_right (a := hi) (b := lo)

/-- A word is its OPC and its ARG. -/
theorem append_opcOf_argOf (w : Word) : opcOf w ++ argOf w = w := by
  ext i hi
  simp only [opcOf, argOf, BitVec.getElem_append, BitVec.getElem_extractLsb']
  split <;> simp_all

end Sys2Proof
end

