-- ==== Sys2Proof/Laws/PerInstr.lean ====
section
/-! SUPPORT. One lemma a command: its word matches the row of its own mnemonic in the opcode table, and no other
row. -/

namespace Sys2Proof.Laws

/-- The word of `i` matches exactly one row of spec/opcode_table.json, the row of its own mnemonic. -/
def OwnRow.Statement (i : Instr) : Prop := rowsOf (encode i) = [i.mnemonic]

theorem OwnRow.init : OwnRow.Statement .init := by unfold OwnRow.Statement; decide
theorem OwnRow.poll : OwnRow.Statement .poll := by unfold OwnRow.Statement; decide
theorem OwnRow.probe : OwnRow.Statement .probe := by unfold OwnRow.Statement; decide
theorem OwnRow.changed : OwnRow.Statement .changed := by unfold OwnRow.Statement; decide
theorem OwnRow.build : OwnRow.Statement .build := by unfold OwnRow.Statement; decide
theorem OwnRow.rdbuilt (i : BitVec 3) : OwnRow.Statement (.rdbuilt i) := by
  unfold OwnRow.Statement; revert i; decide
theorem OwnRow.rdsent (i : BitVec 3) : OwnRow.Statement (.rdsent i) := by
  unfold OwnRow.Statement; revert i; decide
theorem OwnRow.maypoll : OwnRow.Statement .maypoll := by unfold OwnRow.Statement; decide
theorem OwnRow.rdthr : OwnRow.Statement .rdthr := by unfold OwnRow.Statement; decide
theorem OwnRow.rdelapsed : OwnRow.Statement .rdelapsed := by unfold OwnRow.Statement; decide
theorem OwnRow.rdsched : OwnRow.Statement .rdsched := by unfold OwnRow.Statement; decide
theorem OwnRow.setbyte (b : Byte) : OwnRow.Statement (.setbyte b) := by
  unfold OwnRow.Statement; revert b; decide
theorem OwnRow.rdbyte : OwnRow.Statement .rdbyte := by unfold OwnRow.Statement; decide
theorem OwnRow.rdslv : OwnRow.Statement .rdslv := by unfold OwnRow.Statement; decide

end Sys2Proof.Laws
end

