-- ==== Sys2Proof/Machine/Script.lean ====
section
/-! DEFINITION. Command scripts (30_encoding R99): reading a script's text, laying its lines on the schedule, and
writing an answer the way a trace does. A script is the controller's and the environment's, not the block's. -/

namespace Sys2Proof.Machine

/-- The mnemonic's spelling (30_encoding R84). -/
def mnemonicName : Mnemonic → List Char
  | .init => ['I', 'N', 'I', 'T']
  | .poll => ['P', 'O', 'L', 'L']
  | .probe => ['P', 'R', 'O', 'B', 'E']
  | .changed => ['C', 'H', 'A', 'N', 'G', 'E', 'D']
  | .build => ['B', 'U', 'I', 'L', 'D']
  | .rdbuilt => ['R', 'D', 'B', 'U', 'I', 'L', 'T']
  | .rdsent => ['R', 'D', 'S', 'E', 'N', 'T']
  | .maypoll => ['M', 'A', 'Y', 'P', 'O', 'L', 'L']
  | .rdthr => ['R', 'D', 'T', 'H', 'R']
  | .rdelapsed => ['R', 'D', 'E', 'L', 'A', 'P', 'S', 'E', 'D']
  | .rdsched => ['R', 'D', 'S', 'C', 'H', 'E', 'D']
  | .setbyte => ['S', 'E', 'T', 'B', 'Y', 'T', 'E']
  | .rdbyte => ['R', 'D', 'B', 'Y', 'T', 'E']
  | .rdslv => ['R', 'D', 'S', 'L', 'V']

/-- The mnemonic spelled by these characters. -/
def mnemonicOf (cs : List Char) : Option Mnemonic :=
  (opcodeTable.map (·.mnemonic)).find? fun m => mnemonicName m == cs

/-- The value of a digit, decimal or hex. -/
def digitValue (c : Char) : Option Nat :=
  if '0' ≤ c ∧ c ≤ '9' then some (c.toNat - '0'.toNat)
  else if 'a' ≤ c ∧ c ≤ 'f' then some (c.toNat - 'a'.toNat + 10)
  else if 'A' ≤ c ∧ c ≤ 'F' then some (c.toNat - 'A'.toNat + 10)
  else none

/-- A number in the given base, read after `acc`. -/
def digitsFrom (base acc : Nat) : List Char → Option Nat
  | [] => some acc
  | c :: cs =>
    match digitValue c with
    | some d => if d < base then digitsFrom base (acc * base + d) cs else none
    | none => none

/-- A number of at least one digit. -/
def numberOf (base : Nat) : List Char → Option Nat
  | [] => none
  | cs => digitsFrom base 0 cs

/-- An operand: `#n` in decimal or `#0xNN` in hex. -/
def operandOf : List Char → Option Nat
  | '#' :: '0' :: 'x' :: ds => numberOf 16 ds
  | '#' :: ds => numberOf 10 ds
  | _ => none

/-- The words of a line, cut at blanks. -/
def wordsOf (cs : List Char) : List (List Char) :=
  let cut := cs.foldr
    (fun c (cur, ws) => if c = ' ' ∨ c = '\t' then ([], if cur = [] then ws else cur :: ws) else (c :: cur, ws))
    (([], []) : List Char × List (List Char))
  if cut.1 = [] then cut.2 else cut.1 :: cut.2

/-- A level: `0` or `1`. -/
def levelOf : List Char → Option Bool
  | ['0'] => some false
  | ['1'] => some true
  | _ => none

/-- A script line from its words. -/
def lineOfWords : List (List Char) → Option ScriptLine
  | ['@' :: 'T' :: 'I' :: 'C' :: 'K' :: '*' :: ds] => (numberOf 10 ds).map .tick
  | [['@', 'T', 'I', 'C', 'K']] => some (.tick 1)
  | [['@', 'L', 'A', 'T', 'C', 'H'], v] => (levelOf v).map .latch
  | [['@', 'C', 'L', 'K'], v] => (levelOf v).map .clk
  | [['@', 'P', 'E', 'R', 'I'], ['L', 'O', 'W']] => some (.peri .low)
  | [['@', 'P', 'E', 'R', 'I'], ['R', 'E', 'L']] => some (.peri .released)
  | [m] => (mnemonicOf m).map fun m => .command m none
  | [m, v] =>
    match mnemonicOf m, operandOf v with
    | some m, some n => some (.command m (some n))
    | _, _ => none
  | _ => none

/-- One line of text: nothing but a comment, or a script line. `;` starts a comment. -/
def lineOfText (cs : List Char) : Option (List ScriptLine) :=
  match wordsOf (cs.takeWhile (· ≠ ';')) with
  | [] => some []
  | ws => (lineOfWords ws).map fun l => [l]

/-- A move, and then the block's steps at once, as many as one move can enable: a decode step and the acceptance of
the word that waits (log 20). -/
def eager (m : Move) : List Move := [m, .block, .block]

/-- What one line adds to the schedule; none if the line is not well formed. -/
def lineMoves : ScriptLine → Option (List Move)
  | .tick n => some (List.replicate n (eager .tick)).flatten
  | .latch v => some (eager (.latch v))
  | .clk v => some (eager (.clk v))
  | .peri v => some (eager (.peri v))
  | .command m o => (assemble (.command m o)).map fun i => eager (.command (encode i))

/-- A script laid on the schedule, after whatever stands there; none if one of its lines is not well formed. -/
def withScript (s : State) : List ScriptLine → Option State
  | [] => some s
  | l :: ls =>
    match lineMoves l with
    | none => none
    | some ms => withScript { s with env := { s.env with moves := s.env.moves ++ ms } } ls

/-- An answer as a trace writes it: `-> STATUS, DATA` in decimal. -/
def answerText (r : Response) : List Char :=
  ['-', '>', ' '] ++ Nat.toDigits 10 r.status.code.toNat ++ [',', ' '] ++ Nat.toDigits 10 r.data

end Sys2Proof.Machine
end

