-- ==== Sys2Proof/Certificates/Slice0/Obligations.lean ====
section
/-! DEFINITION. The statements about the model, for the provers. `Does m s P` (Safety.lean): the step of `s` whose next
move is `m` answers a next state with the property `P`. `Leads ms s t`: the moves `ms`, one step each, lead from `s`
to `t`. -/

open Sys2Proof Sys2Proof.Machine

/-! ## Encodings -/

/-- Words written out from the opcode map of 30_encoding R84, one a row. -/
def Obligations.OpcodeMapWordsDecode : Prop :=
  decode 0x0100#16 = .ok .init ∧ decode 0x0200#16 = .ok .poll ∧ decode 0x0300#16 = .ok .probe ∧
  decode 0x1000#16 = .ok .changed ∧ decode 0x1100#16 = .ok .build ∧ decode 0x1207#16 = .ok (.rdbuilt 7#3) ∧
  decode 0x1306#16 = .ok (.rdsent 6#3) ∧ decode 0x2000#16 = .ok .maypoll ∧ decode 0x2100#16 = .ok .rdthr ∧
  decode 0x2200#16 = .ok .rdelapsed ∧ decode 0x2300#16 = .ok .rdsched ∧ decode 0x30B4#16 = .ok (.setbyte 0xB4#8) ∧
  decode 0x3100#16 = .ok .rdbyte ∧ decode 0x3200#16 = .ok .rdslv

/-- No bit of an encoding is dropped: every command, with every operand, is read back from its word. -/
def Obligations.DecodeReadsBackEveryEncodedCommand : Prop :=
  ∀ i : Instr, i.wellFormed = true ∧ decode (encode i) = .ok i

/-- Each legal word has one meaning, and that command's word is the word itself. -/
def Obligations.EncodeRestoresEveryDecodedWord : Prop :=
  ∀ (w : Word) (i : Instr), decode w = .ok i → encode i = w

/-- 30_encoding R97, whole: legality is matching a row of the table; the illegal words are the listed ones; 283 words
are legal; an illegal word is answered (ILLEGAL_COMMAND, 0) and changes no state. -/
def Obligations.LegalWordsAreTheTableRows : Prop :=
  (∀ w : Word, (∃ i, decode w = .ok i) ↔ ∃ r ∈ opcodeTable, w &&& r.mask = r.pattern) ∧
  (∀ w : Word, (¬ ∃ i, decode w = .ok i) ↔
    let opc := w.toNat / 256
    let arg := w.toNat % 256
    opc = 0 ∨ (0x04 ≤ opc ∧ opc ≤ 0x0F) ∨ (0x14 ≤ opc ∧ opc ≤ 0x1F) ∨ (0x24 ≤ opc ∧ opc ≤ 0x2F) ∨ 0x33 ≤ opc ∨
    (opc ∈ [0x01, 0x02, 0x03, 0x10, 0x11, 0x20, 0x21, 0x22, 0x23, 0x31, 0x32] ∧ arg ≠ 0) ∨
    (opc ∈ [0x12, 0x13] ∧ arg / 8 ≠ 0)) ∧
  (∃ ws : List Word, ws.Nodup ∧ ws.length = 283 ∧ ∀ w, w ∈ ws ↔ ∃ i, decode w = .ok i) ∧
  (∀ (s : State) (w : Word) (rest : List Word), s.cfg.valid = true → portReady s = true → s.env.cmds = w :: rest →
    (¬ ∃ i, decode w = .ok i) →
    Does .block s fun t =>
      t = { s with port := ⟨none, some ⟨.illegalCommand, 0⟩⟩, env := { t.env with cmds := rest } } ∧
      t.env = { s.env with cmds := rest, moves := t.env.moves })

/-- Script lines (30_encoding R99): a command line assembles exactly when its operand fits, and every command has a
line that assembles to it. -/
def Obligations.CommandLinesAssembleIffOperandFits : Prop :=
  (∀ (m : Mnemonic) (o : Option Nat),
    (assemble (.command m o)).isSome = (ScriptLine.command m o).wellFormed) ∧
  (∀ i : Instr, assemble i.line = some i)

/-! ## The command port -/

/-- A step runs the decoded command: when the block moves, the port is ready and the word that waits first on it is legal,
the step is `exec` of that command, the word and the move being consumed. -/
def Obligations.StepExecutesTheOfferedCommand : Prop :=
  ∀ (s : State) (w : Word) (rest : List Word) (later : List Move) (i : Instr),
    s.cfg.valid = true → portReady s = true → s.env.cmds = w :: rest → decode w = .ok i →
    step (s.withMoves (.block :: later)) =
      exec i { s with env := { s.env with cmds := rest, moves := later } }

/-- A command that is not accepted waits, without effect, and keeps its place on the port: while the gate is closed, and while
a command is in progress. That it waits is R62 and R11; that `exec` answers the state as it is there, and that only a
step that accepts a word takes it off the port, are the model's choice (log 15). While the gate is closed, UT does not decode either. A word put on the port waits behind
those that wait there already (log 2), whatever the state. -/
def Obligations.CommandsAndDecodeWaitAtTheGate : Prop :=
  (∀ s : State, s.cfg.valid = true → portReady s = false →
    (∀ i, exec i s = .next s) ∧
    Does .block s fun t => t.env.cmds = s.env.cmds ∧
      (serviceEnabled s = false → decodeEnabled s = false → t = s.withMoves t.env.moves)) ∧
  (∀ s : State, s.cfg.valid = true → (s.sl.phase ≠ .idle ∨ s.sl.lpend = true) →
    portReady s = false ∧
    Does .block s fun t => t.ut = s.ut ∧ t.rs = s.rs ∧ t.ps = s.ps ∧ t.port = s.port ∧ t.env.cmds = s.env.cmds) ∧
  (∀ (s : State) (w : Word), s.cfg.valid = true →
    Does (.command w) s fun t => t = { s with env := { s.env with cmds := s.env.cmds ++ [w], moves := t.env.moves } })

/-- A valid machine always goes on, and keeps its configuration; an invalid configuration is refused (93 A21). -/
def Obligations.ValidMachineAlwaysGoesOn : Prop :=
  ∀ s : State,
    (s.cfg.valid = true → ∃ t, step s = .next t ∧ t.cfg = s.cfg) ∧
    (s.cfg.valid = false → step s = .refused .badConfiguration)

/-! ## UT's commands -/

/-- INIT releases the line and answers (OK, 0); the next state is written out whole. It is accepted only while UT is idle:
that `exec` answers the state as it is otherwise is the model's choice (log 15). Twice is as once. -/
def Obligations.InitReleasesTheLine : Prop :=
  encode .init = 0x0100#16 ∧
  (∀ s : State, portReady s = true →
    exec .init s = .next
      { s with ut := { s.ut with drive := .released }, port := ⟨none, some ⟨.ok, 0⟩⟩ }) ∧
  (∀ s : State, s.ut.phase ≠ .idle → exec .init s = .next s) ∧
  (∀ s t : State, exec .init s = .next t → exec .init t = .next t)

/-- POLL's accept step: the waveform's first segment goes on the wire, the sample list is emptied, and the command
stays on the port (that rsp is empty then is log 4). In the state right after it no command is accepted: `exec` answers
that state as it is (log 15). -/
def Obligations.PollBeginsTheAtomicSection : Prop :=
  encode .poll = 0x0200#16 ∧
  (∀ s : State, portReady s = true →
    ∃ g rest, frameSegs s.cfg s.cfg.cmdFrame s.cfg.cmdLen = g :: rest ∧
      exec .poll s = .next
        { s with
          ut := { s.ut with
            op := .poll, drive := g.drive, segLeft := g.ticks, segs := rest, samples := [], cnt := 0,
            timedOut := false, phase := .send }
          port := ⟨some 0x0200#16, none⟩ }) ∧
  (∀ (s t : State) (i : Instr), portReady s = true → exec .poll s = .next t → exec i t = .next t)

/-- PROBE's accept step: as POLL's, with ut_op = PROBE (that rsp is empty then is log 4). In the state right after it no
command is accepted: `exec` answers that state as it is (log 15). -/
def Obligations.ProbeBeginsTheAtomicSection : Prop :=
  encode .probe = 0x0300#16 ∧
  (∀ s : State, portReady s = true →
    ∃ g rest, frameSegs s.cfg s.cfg.cmdFrame s.cfg.cmdLen = g :: rest ∧
      exec .probe s = .next
        { s with
          ut := { s.ut with
            op := .probe, drive := g.drive, segLeft := g.ticks, segs := rest, samples := [], cnt := 0,
            timedOut := false, phase := .send }
          port := ⟨some 0x0300#16, none⟩ }) ∧
  (∀ (s t : State) (i : Instr), portReady s = true → exec .probe s = .next t → exec i t = .next t)

/-! ## RS's commands -/

/-- CHANGED answers 1 iff FIRST or some byte differs, clears FIRST, and writes nothing else but the response. -/
def Obligations.ChangedAnswersFirstOrDifference : Prop :=
  encode .changed = 0x1000#16 ∧
  ∀ s : State, portReady s = true →
    exec .changed s = .next
      { s with
        rs := { s.rs with first := false }
        port := ⟨none, some ⟨.ok,
          if s.rs.first = true ∨ ∃ i : Fin 8, s.rs.lastBuilt[i] ≠ s.rs.lastSent[i] then 1 else 0⟩⟩ }

/-- BUILD copies all 8 bytes of lastBuilt into lastSent and writes nothing else but the response; FIRST stays. -/
def Obligations.BuildCopiesTheWholeReport : Prop :=
  encode .build = 0x1100#16 ∧
  ∀ s : State, portReady s = true →
    exec .build s = .next
      { s with rs := { s.rs with lastSent := s.rs.lastBuilt }, port := ⟨none, some ⟨.ok, 0⟩⟩ }

/-- RDBUILT i answers byte i of lastBuilt and changes nothing else; its words are 0x1200 to 0x1207. -/
def Obligations.RdbuiltAnswersTheByte : Prop :=
  (∀ i : BitVec 3, (encode (.rdbuilt i)).toNat = 0x1200 + i.toNat) ∧
  (∀ (i : BitVec 3) (s : State), portReady s = true →
    exec (.rdbuilt i) s = .next
      { s with port := ⟨none, some ⟨.ok, (s.rs.lastBuilt[i.toNat]'i.isLt).toNat⟩⟩ }) ∧
  (∀ w : Word, 0x1208 ≤ w.toNat → w.toNat ≤ 0x12FF → ∃ e, decode w = .error e)

/-- RDSENT i answers byte i of lastSent and changes nothing else; its words are 0x1300 to 0x1307. -/
def Obligations.RdsentAnswersTheByte : Prop :=
  (∀ i : BitVec 3, (encode (.rdsent i)).toNat = 0x1300 + i.toNat) ∧
  (∀ (i : BitVec 3) (s : State), portReady s = true →
    exec (.rdsent i) s = .next
      { s with port := ⟨none, some ⟨.ok, (s.rs.lastSent[i.toNat]'i.isLt).toNat⟩⟩ }) ∧
  (∀ w : Word, 0x1308 ≤ w.toNat → w.toNat ≤ 0x13FF → ∃ e, decode w = .error e)

/-! ## PS's commands -/

/-- MAYPOLL grants from WAITING once ELAPSED (infinite while OVF = 1) has reached the threshold; a grant moves
ps_state to READY, and nothing else but the response is written: elapsed is not reset. -/
def Obligations.MaypollGrantsFromWaitingAtThreshold : Prop :=
  encode .maypoll = 0x2000#16 ∧
  ∀ s : State, portReady s = true →
    (s.ps.mode = .waiting ∧ (s.ps.ovf = true ∨ s.ps.elapsed ≥ s.ps.threshold) →
      exec .maypoll s = .next
        { s with ps := { s.ps with mode := .ready }, port := ⟨none, some ⟨.ok, 1⟩⟩ }) ∧
    (¬ (s.ps.mode = .waiting ∧ (s.ps.ovf = true ∨ s.ps.elapsed ≥ s.ps.threshold)) →
      exec .maypoll s = .next { s with port := ⟨none, some ⟨.ok, 0⟩⟩ })

/-- RDTHR, RDELAPSED and RDSCHED answer threshold, elapsed, and ps_state with OVF in bit 1, and change nothing else. -/
def Obligations.SchedulerReadsAnswerTheRegisters : Prop :=
  encode .rdthr = 0x2100#16 ∧ encode .rdelapsed = 0x2200#16 ∧ encode .rdsched = 0x2300#16 ∧
  ∀ s : State, portReady s = true →
    exec .rdthr s = .next { s with port := ⟨none, some ⟨.ok, s.ps.threshold⟩⟩ } ∧
    exec .rdelapsed s = .next { s with port := ⟨none, some ⟨.ok, s.ps.elapsed⟩⟩ } ∧
    exec .rdsched s = .next
      { s with port := ⟨none, some ⟨.ok, (if s.ps.mode = .ready then 1 else 0) + 2 * s.ps.ovf.toNat⟩⟩ }

/-! ## SL's commands -/

/-- SETBYTE b writes all of shift_byte in one step, and nothing else but the response. It cannot run during a transaction:
that `exec` answers the state as it is there is the model's choice (log 15). -/
def Obligations.SetbyteWritesTheShiftByte : Prop :=
  (∀ b : Byte, (encode (.setbyte b)).toNat = 0x3000 + b.toNat) ∧
  (∀ (b : Byte) (s : State), portReady s = true →
    exec (.setbyte b) s = .next
      { s with sl := { s.sl with shiftByte := b }, port := ⟨none, some ⟨.ok, 0⟩⟩ }) ∧
  (∀ (b : Byte) (s : State), s.sl.phase ≠ .idle → exec (.setbyte b) s = .next s)

/-- RDBYTE answers shift_byte, and RDSLV the three line levels; neither changes anything else (43_slave_emulator R181, R182,
30_encoding R91). Where RDSLV runs, DATA[0] is DATA_IDLE in every state that meets R199, as R182 derives. -/
def Obligations.SlaveReadsAnswerTheRegisters : Prop :=
  encode .rdbyte = 0x3100#16 ∧ encode .rdslv = 0x3200#16 ∧
  ∀ s : State, portReady s = true →
    exec .rdbyte s = .next { s with port := ⟨none, some ⟨.ok, s.sl.shiftByte.toNat⟩⟩ } ∧
    exec .rdslv s = .next
      { s with port := ⟨none, some ⟨.ok,
        s.sl.dataOut.toNat + 2 * s.sl.latchLvl.toNat + 4 * s.sl.clkLvl.toNat⟩⟩ } ∧
    (SlaveInvariant s → s.sl.dataOut = s.cfg.dataIdle)

/-- The side effects of commands (20_memory R68), whole: the seven with none leave everything but the response, and answer
the same when repeated; INIT, BUILD and SETBYTE are idempotent; CHANGED and MAYPOLL are not; and each command listed
with a side effect has one in some state. -/
def Obligations.CommandSideEffects : Prop :=
  (∀ (s t : State) (i : Instr),
    i ∈ [.rdthr, .rdelapsed, .rdsched, .rdbyte, .rdslv] ∨ (∃ k, i = .rdbuilt k ∨ i = .rdsent k) →
    exec i s = .next t → t = { s with port := t.port } ∧ exec i t = .next t) ∧
  (∀ (s t : State) (i : Instr), i ∈ [.init, .build] ∨ (∃ b, i = .setbyte b) →
    exec i s = .next t → exec i t = .next t) ∧
  (∀ i ∈ [Instr.changed, Instr.maypoll], ∃ s t u : State,
    portReady s = true ∧ exec i s = .next t ∧ exec i t = .next u ∧ u.port.rsp ≠ t.port.rsp) ∧
  (∀ i ∈ [Instr.init, .poll, .probe, .changed, .build, .maypoll, .setbyte 0#8], ∃ s t : State,
    portReady s = true ∧ exec i s = .next t ∧ t ≠ { s with port := t.port })

/-! ## UT's events -/

/-- SEGS (40_transceiver R112), whole: the segments of the bits from the top down, then the stop symbol; 2n + 1 entries
that last n * (T_SHORT + T_LONG) + T_SHORT ticks. -/
def Obligations.SendWaveformIsTheFrame : Prop :=
  ∀ (c : Params) (frame n : Nat),
    frameSegs c frame 0 = [⟨.low, c.tShort⟩] ∧
    frameSegs c frame (n + 1) =
      (if frame.testBit n then [⟨.low, c.tShort⟩, ⟨.released, c.tLong⟩]
       else [⟨.low, c.tLong⟩, ⟨.released, c.tShort⟩]) ++ frameSegs c frame n ∧
    (frameSegs c frame n).length = 2 * n + 1 ∧
    ((frameSegs c frame n).map (·.ticks)).sum = n * (c.tShort + c.tLong) + c.tShort

/-- A TICK in UT_SEND counts the segment down, goes on to the next, or ends the send with the line released. -/
def Obligations.SendTickAdvancesTheWaveform : Prop :=
  ∀ s : State, s.cfg.valid = true → s.ut.phase = .send →
    (1 < s.ut.segLeft → Does .tick s fun t => t.ut = { s.ut with segLeft := s.ut.segLeft - 1 }) ∧
    (s.ut.segLeft ≤ 1 → ∀ g rest, s.ut.segs = g :: rest →
      Does .tick s fun t => t.ut = { s.ut with drive := g.drive, segLeft := g.ticks, segs := rest }) ∧
    (s.ut.segLeft ≤ 1 → s.ut.segs = [] →
      Does .tick s fun t => t.ut = { s.ut with drive := .released, segLeft := 0, phase := .sample, cnt := 0 })

/-- A TICK in UT_SAMPLE reads ubus, which is low iff someone drives low, and counts, times out, or closes a sample. -/
def Obligations.SampleTickMeasuresTheLevel : Prop :=
  ∀ s : State, s.cfg.valid = true → s.ut.phase = .sample →
    let line := !(decide (s.ut.drive = .low ∨ s.env.periDrive = .low))
    (s.ut.cnt = 0 → Does .tick s fun t => t.ut = { s.ut with curLevel := line, cnt := 1 }) ∧
    (s.ut.cnt ≠ 0 → line = s.ut.curLevel → s.ut.cnt = 2 ^ s.cfg.sampleW - 1 →
      Does .tick s fun t => t.ut = { s.ut with timedOut := true, phase := .decode }) ∧
    (s.ut.cnt ≠ 0 → line = s.ut.curLevel → s.ut.cnt ≠ 2 ^ s.cfg.sampleW - 1 →
      Does .tick s fun t => t.ut = { s.ut with cnt := s.ut.cnt + 1 }) ∧
    (s.ut.cnt ≠ 0 → line ≠ s.ut.curLevel → s.ut.samples.length = 128 →
      Does .tick s fun t => t.ut = { s.ut with samples := s.ut.samples ++ [s.ut.cnt], phase := .decode }) ∧
    (s.ut.cnt ≠ 0 → line ≠ s.ut.curLevel → s.ut.samples.length ≠ 128 →
      Does .tick s fun t =>
        t.ut = { s.ut with samples := s.ut.samples ++ [s.ut.cnt], curLevel := line, cnt := 1 })

/-- The UT decode step (40_transceiver R119), whole: what POLL and PROBE answer, what is stored, what else changes, and
that a length mismatch cannot come up where R118 holds. -/
def Obligations.DecodeStepAnswersTheTransaction : Prop :=
  (∀ s : State, s.cfg.valid = true → s.ut.phase = .decode → s.sl.phase = .idle → s.sl.lpend = false →
    Does .block s fun t =>
      t.ut = { s.ut with phase := .idle, samples := [], cnt := 0 } ∧
      t.ps = s.ps ∧ t.sl = s.sl ∧ t.hist = s.hist ∧ t.env.cmds = s.env.cmds ∧ t.port.cmdPending = none ∧
      (s.ut.timedOut = true → t.rs = s.rs ∧
        t.port.rsp = some (if s.ut.op = .poll then ⟨.receiveTimeout, 0⟩ else ⟨.ok, 0⟩)) ∧
      (s.ut.timedOut = false → ∀ r, decodeReport s.cfg s.ut.samples = some r →
        t.rs = (if s.ut.op = .poll then { s.rs with lastBuilt := r } else s.rs) ∧
        t.port.rsp = some (if s.ut.op = .poll then ⟨.ok, 0⟩ else ⟨.ok, 1⟩)) ∧
      (s.ut.timedOut = false → decodeReport s.cfg s.ut.samples = none → t.rs = s.rs ∧
        t.port.rsp = some (if s.ut.op = .poll then ⟨.frameLengthMismatch, 0⟩ else ⟨.ok, 0⟩))) ∧
  (∀ s : State, PhaseInvariant s → s.ut.phase = .decode → s.ut.timedOut = false →
    decodeReport s.cfg s.ut.samples ≠ none)

/-- DECODE (40_transceiver R122), whole: it fails on every length but 129; otherwise byte j of the report holds, first
bit highest, the wire bits 8j .. 8j+7, and byte 2+c holds them complemented iff INVERT_MASK[c] = 1. -/
def Obligations.DecodePlacesEveryWireBit : Prop :=
  ∀ (c : Params) (samples : List Nat),
    (samples.length ≠ 129 → decodeReport c samples = none) ∧
    (samples.length = 129 → ∃ r, decodeReport c samples = some r ∧
      ∀ (j b : Nat) (hj : j < 8), b < 8 →
        r[j].getLsbD (7 - b) =
          (decide (samples.getD (2 * (8 * j + b) + 1) 0 < samples.getD (2 * (8 * j + b) + 2) 0) ^^
            (decide (2 ≤ j) && c.invertMask.getLsbD (j - 2))))

/-- Pair decoding depends on the order of the two counts alone (40_transceiver R123): samples with the same order in every
pair decode alike, whatever the magnitudes and whatever sample 0 is; equal counts give 0. That low < high gives 1 is said by
DecodePlacesEveryWireBit. -/
def Obligations.DecodingSeesOnlyTheOrderOfAPair : Prop :=
  (∀ (c : Params) (xs ys : List Nat), xs.length = ys.length →
    (∀ k < 64, (xs.getD (2 * k + 1) 0 < xs.getD (2 * k + 2) 0 ↔ ys.getD (2 * k + 1) 0 < ys.getD (2 * k + 2) 0)) →
    decodeReport c xs = decodeReport c ys) ∧
  (∀ (xs : List Nat) (k : Nat), xs.getD (2 * k + 1) 0 = xs.getD (2 * k + 2) 0 → wireBit xs k = false)

/-- A POLL or PROBE with no peripheral on the line, or with one that holds it low, is answered after SEND_TICKS + SMAX + 1
TICKs by a timeout, and RS is untouched (40_transceiver R120 outcome (b) with p empty, R127). -/
def Obligations.SilentPeripheralTimesOut : Prop :=
  ∀ s : State, Inv s → portReady s = true → ∀ i ∈ [Instr.poll, Instr.probe],
    ∃ a t, exec i s = .next a ∧
      Leads (List.replicate (s.cfg.sendTicks + s.cfg.smax + 1) .tick ++ [.block]) a t ∧
      t.rs = s.rs ∧ t.sl = s.sl ∧ t.ut.phase = .idle ∧
      t.port = ⟨none, some (if i = .poll then ⟨.receiveTimeout, 0⟩ else ⟨.ok, 0⟩)⟩ ∧
      t.ps.elapsed = (s.ps.elapsed + s.cfg.sendTicks + s.cfg.smax + 1) % 2 ^ s.cfg.elapsedW

/-- The send lasts exactly SEND_TICKS TICKs: before, UT is in UT_SEND; after, the line is released and sampling begins. -/
def Obligations.SendLastsSendTicks : Prop :=
  ∀ s : State, Inv s → portReady s = true → ∀ i ∈ [Instr.poll, Instr.probe],
    ∃ a, exec i s = .next a ∧
      (∀ n < s.cfg.sendTicks, ∃ t, Leads (List.replicate n .tick) a t ∧ t.ut.phase = .send) ∧
      ∃ t, Leads (List.replicate s.cfg.sendTicks .tick) a t ∧
        t.ut.phase = .sample ∧ t.ut.drive = .released ∧ t.ut.samples = [] ∧ t.ut.cnt = 0 ∧
        t.ps.elapsed = (s.ps.elapsed + s.cfg.sendTicks) % 2 ^ s.cfg.elapsedW ∧
        (t.ps.ovf = true ↔ s.ps.ovf = true ∨ 2 ^ s.cfg.elapsedW ≤ s.ps.elapsed + s.cfg.sendTicks)

/-- The abstract form of POLL and PROBE, outcome (a) (40_transceiver R120), holds of the tick-level rules: a peripheral
that holds alternating levels for the counts `ns` is measured as `ns`, the section lasts SEND_TICKS + sum + 1 TICKs,
and the decode step then runs on `ns`. -/
def Obligations.CompleteResponseIsMeasuredAndDecoded : Prop :=
  ∀ (s : State) (ns : List Nat) (v : Drive), Inv s → portReady s = true →
    ns.length = 129 → (∀ n ∈ ns, 1 ≤ n ∧ n ≤ s.cfg.smax) → ∀ i ∈ [Instr.poll, Instr.probe],
    ∃ a t r, exec i s = .next a ∧ decodeReport s.cfg ns = some r ∧
      Leads (List.replicate s.cfg.sendTicks .tick ++ waveMoves v ns ++ [.block]) a t ∧
      t.rs = (if i = .poll then { s.rs with lastBuilt := r } else s.rs) ∧
      t.port = ⟨none, some (if i = .poll then ⟨.ok, 0⟩ else ⟨.ok, 1⟩)⟩ ∧
      t.sl = s.sl ∧ t.ut.phase = .idle ∧
      t.ps.elapsed = (s.ps.elapsed + s.cfg.sendTicks + ns.sum + 1) % 2 ^ s.cfg.elapsedW

/-- The abstract form of POLL and PROBE, outcome (b) (40_transceiver R120), holds of the tick-level rules, with `p` empty or
not: a peripheral that holds alternating levels for fewer than 129 counts `p`, and then one more level, is answered by a
timeout after SEND_TICKS + sum + SMAX + 1 TICKs, and RS is untouched (R127, response cut short). -/
def Obligations.ResponseCutShortTimesOut : Prop :=
  ∀ (s : State) (p : List Nat) (v : Drive), Inv s → portReady s = true →
    p.length < 129 → (∀ n ∈ p, 1 ≤ n ∧ n ≤ s.cfg.smax) → ∀ i ∈ [Instr.poll, Instr.probe],
    ∃ a u t, exec i s = .next a ∧
      Leads (List.replicate s.cfg.sendTicks .tick ++ holdMoves v (p ++ [s.cfg.smax + 1])) a u ∧
      u.ut.phase = .decode ∧ u.ut.timedOut = true ∧ u.ut.samples = p ∧
      Leads [.block] u t ∧
      t.rs = s.rs ∧ t.sl = s.sl ∧ t.ut.phase = .idle ∧
      t.port = ⟨none, some (if i = .poll then ⟨.receiveTimeout, 0⟩ else ⟨.ok, 0⟩)⟩ ∧
      t.ps.elapsed = (s.ps.elapsed + s.cfg.sendTicks + p.sum + s.cfg.smax + 1) % 2 ^ s.cfg.elapsedW

/-! ## PS's events -/

/-- HOSTPOLLED (42_poll_scheduler R162), whole: every branch, and the writes every branch ends with. Nothing else changes
but the model's count of HOSTPOLLED, which is the model's choice (log 8). -/
def Obligations.HostPolledAdaptsTheThreshold : Prop :=
  ∀ s : State,
    let e := s.ps.elapsed
    let window := s.cfg.pollDur + s.cfg.margin
    (s.ps.ovf = true → (hostPolled s).ps.threshold = s.cfg.defaultThr) ∧
    (s.ps.ovf = false → e < s.cfg.minIdle → (hostPolled s).ps.threshold = s.ps.threshold) ∧
    (s.ps.ovf = false → s.cfg.minIdle ≤ e → window < e → s.cfg.minIdle ≤ e - window →
      (hostPolled s).ps.threshold = e - window) ∧
    (s.ps.ovf = false → s.cfg.minIdle ≤ e → window < e → e - window < s.cfg.minIdle →
      (hostPolled s).ps.threshold = s.cfg.defaultThr) ∧
    (s.ps.ovf = false → s.cfg.minIdle ≤ e → e ≤ window → (hostPolled s).ps.threshold = s.cfg.defaultThr) ∧
    (hostPolled s).ps.elapsed = 0 ∧ (hostPolled s).ps.ovf = false ∧ (hostPolled s).ps.mode = .waiting ∧
    hostPolled s = { s with ps := (hostPolled s).ps, hist := { s.hist with hostPolls := s.hist.hostPolls + 1 } }

/-- Every TICK, in every phase of every unit, counts elapsed, and a wrap sets OVF (42_poll_scheduler R160). A HOSTPOLLED
that the watchdog's expiry raises in the same TICK sees elapsed after the increment. -/
def Obligations.EveryTickCountsElapsed : Prop :=
  ∀ s : State, s.cfg.valid = true →
    let counted : Ps :=
      if s.ps.elapsed = 2 ^ s.cfg.elapsedW - 1 then { s.ps with elapsed := 0, ovf := true }
      else { s.ps with elapsed := s.ps.elapsed + 1 }
    Does .tick s fun t =>
      t.ps =
        if s.sl.phase ≠ .idle ∧ s.sl.wdt = 1 ∧ s.cfg.recordOnAbort = true then (hostPolled { s with ps := counted }).ps
        else counted

/-- What a TICK leaves (10_state R41, 40_transceiver R113, R117): in UT_IDLE and UT_DECODE all of UT, so that the measured
samples survive the TICKs that pass while the gate holds off the decode step (20_memory R62), any number of them; and in
every phase RS, the port, the words that wait and the levels of the environment. -/
def Obligations.TicksKeepTheMeasuredSamples : Prop :=
  (∀ s : State, s.cfg.valid = true →
    Does .tick s fun t =>
      (s.ut.phase = .idle ∨ s.ut.phase = .decode → t.ut = s.ut) ∧
      t.cfg = s.cfg ∧ t.rs = s.rs ∧ t.port = s.port ∧ t.env = { s.env with moves := t.env.moves }) ∧
  (∀ (n : Nat) (s : State), s.cfg.valid = true → s.ut.phase = .idle ∨ s.ut.phase = .decode →
    ∃ t, Leads (List.replicate n .tick) s t ∧
      t.ut = s.ut ∧ t.rs = s.rs ∧ t.port = s.port ∧ t.env = { s.env with moves := [] })

/-- The adaptation law (42_poll_scheduler R168), whole: at a constant interval I the threshold is I - POLL_DUR - MARGIN
after one HOSTPOLLED and stays there, or, below the floor, keeps its value. -/
def Obligations.ThresholdConvergesAtAConstantInterval : Prop :=
  ∀ (s u : State) (interval : Nat),
    s.ps.elapsed = interval → s.ps.ovf = false →
    u.cfg = s.cfg → u.ps.elapsed = interval → u.ps.ovf = false → u.ps.threshold = (hostPolled s).ps.threshold →
    (s.cfg.minIdle ≤ interval → s.cfg.pollDur + s.cfg.margin < interval →
      s.cfg.minIdle ≤ interval - s.cfg.pollDur - s.cfg.margin →
      (hostPolled s).ps.threshold = interval - s.cfg.pollDur - s.cfg.margin ∧
      (hostPolled u).ps.threshold = interval - s.cfg.pollDur - s.cfg.margin) ∧
    (interval < s.cfg.minIdle →
      (hostPolled s).ps.threshold = s.ps.threshold ∧ (hostPolled u).ps.threshold = s.ps.threshold)

/-- At most one grant a cycle (42_poll_scheduler R167), whole: a MAYPOLL that answers 1 does so from WAITING, with ELAPSED at
the threshold, and leaves READY; and over any run without RESET that raises no HOSTPOLLED, READY stays, so that no
MAYPOLL in it answers 1 any more. The model's count of HOSTPOLLED (log 8) marks the cycle. -/
def Obligations.AtMostOneGrantPerCycle : Prop :=
  (∀ s t : State, portReady s = true → exec .maypoll s = .next t → t.port.rsp = some ⟨.ok, 1⟩ →
    s.ps.mode = .waiting ∧ (s.ps.ovf = true ∨ s.ps.threshold ≤ s.ps.elapsed) ∧ t.ps.mode = .ready) ∧
  (∀ (ms : List Move) (s t : State), s.cfg.valid = true → Move.reset ∉ ms → Leads ms s t →
    s.hist.hostPolls ≤ t.hist.hostPolls ∧
    (t.hist.hostPolls = s.hist.hostPolls → s.ps.mode = .ready →
      t.ps.mode = .ready ∧
      (portReady t = true → ∃ u, exec .maypoll t = .next u ∧ u.port.rsp = some ⟨.ok, 0⟩)))

/-! ## RS over runs -/

/-- lastBuilt is written only by the decode step of a successful POLL, as a whole record (41_report_store R144), or by
RESET (70_reset_and_hazards R240); lastSent only by BUILD (41_report_store R143, 20_memory R67, 10_state R41) or RESET. -/
def Obligations.OnlyASuccessfulPollWritesLastBuilt : Prop :=
  ∀ s t : State, step s = .next t →
    (t.rs.lastBuilt ≠ s.rs.lastBuilt →
      s.env.moves.head? = some .reset ∨
      ((s.env.moves = [] ∨ s.env.moves.head? = some .block) ∧ s.ut.phase = .decode ∧ s.ut.op = .poll ∧
        s.ut.timedOut = false ∧ gateOpen s = true ∧ decodeReport s.cfg s.ut.samples = some t.rs.lastBuilt)) ∧
    (t.rs.lastSent ≠ s.rs.lastSent →
      s.env.moves.head? = some .reset ∨
      ((s.env.moves = [] ∨ s.env.moves.head? = some .block) ∧ s.env.cmds.head? = some 0x1100#16 ∧
        portReady s = true ∧ t.rs.lastSent = s.rs.lastBuilt))

/-- The change-detection laws (41_report_store R145), whole. The first law holds over every run from the BUILD to the CHANGED
in which no step leaves another lastBuilt. -/
def Obligations.ChangeDetectionLaws : Prop :=
  (∀ (ms : List Move) (s t u : State), s.cfg.valid = true → portReady s = true → exec .build s = .next t →
    Leads ms t u → Move.reset ∉ ms →
    (∀ (n : Nat) (w : State), Leads (ms.take n) t w → w.rs.lastBuilt = t.rs.lastBuilt) →
    portReady u = true → u.rs.first = false → ∃ v, exec .changed u = .next v ∧ v.port.rsp = some ⟨.ok, 0⟩) ∧
  (∀ s t : State, portReady s = true → exec .changed s = .next t → t.port.rsp = some ⟨.ok, 0⟩ →
    t.rs.lastBuilt = t.rs.lastSent) ∧
  (∀ s t : State, portReady s = true → exec .changed s = .next t → t.rs.first = false) ∧
  (∀ s t : State, step s = .next t → s.env.moves.head? ≠ some .reset → s.rs.first = false → t.rs.first = false)

/-! ## SL's events -/

/-- A latch rising edge starts a transaction when SL is idle outside the atomic section (43_slave_emulator R185): shift_byte is
copied, its MSB is on the line at once, the watchdog is armed and a pending edge merges. That data_out is the MSB of
the byte just copied is log 6. -/
def Obligations.LatchRiseStartsATransaction : Prop :=
  ∀ s : State, s.cfg.valid = true → s.sl.phase = .idle → s.sl.latchLvl = false →
    s.ut.phase ≠ .send → s.ut.phase ≠ .sample →
    Does (.latch true) s fun t =>
      t = { s with
        sl := { s.sl with
          sh := s.sl.shiftByte, pos := 7, dataOut := s.sl.shiftByte.getLsbD 7, wdt := s.cfg.wdtTicks,
          lpend := false, latchLvl := true, phase := .waitLatchFall }
        env := { s.env with latchIn := true, moves := t.env.moves } }

/-- A latch rising edge in the atomic section only sets LPEND (43_slave_emulator R186). -/
def Obligations.LatchRiseWaitsInTheAtomicSection : Prop :=
  ∀ s : State, s.cfg.valid = true → s.sl.latchLvl = false → (s.ut.phase = .send ∨ s.ut.phase = .sample) →
    Does (.latch true) s fun t =>
      t = { s with
        sl := { s.sl with lpend := true, latchLvl := true }
        env := { s.env with latchIn := true, moves := t.env.moves } }

/-- A latch rising edge in SL_SHIFT aborts and restarts (43_slave_emulator R189): HOSTPOLLED comes first, only if
RECORD_ON_ABORT = 1, then START. UT, RS and the port are untouched (R198). -/
def Obligations.LatchRiseAbortsAndRestarts : Prop :=
  ∀ s : State, s.cfg.valid = true → s.sl.phase = .shift → s.sl.latchLvl = false →
    s.ut.phase ≠ .send → s.ut.phase ≠ .sample →
    Does (.latch true) s fun t =>
      t.sl = { s.sl with
        sh := s.sl.shiftByte, pos := 7, dataOut := s.sl.shiftByte.getLsbD 7, wdt := s.cfg.wdtTicks, lpend := false,
        latchLvl := true, phase := .waitLatchFall } ∧
      t.ps = (if s.cfg.recordOnAbort then (hostPolled s).ps else s.ps) ∧
      t.hist.hostPolls = s.hist.hostPolls + s.cfg.recordOnAbort.toNat ∧ t.hist.transEnd = some .latchAbort ∧
      t.ut = s.ut ∧ t.rs = s.rs ∧ t.port = s.port

/-- A latch falling edge ends the wait and rearms the watchdog (43_slave_emulator R187); in any other state it changes only
latch_lvl. -/
def Obligations.LatchFallBeginsTheShift : Prop :=
  ∀ s : State, s.cfg.valid = true → s.sl.latchLvl = true →
    Does (.latch false) s fun t =>
      t = { s with
        sl := (if s.sl.phase = .waitLatchFall
          then { s.sl with latchLvl := false, phase := .shift, wdt := s.cfg.wdtTicks }
          else { s.sl with latchLvl := false })
        env := { s.env with latchIn := false, moves := t.env.moves } }

/-- LATCH_SERVICE (43_slave_emulator R188): once the atomic section is over, the block's own step serves the pending edge by
START, into SL_SHIFT if the latch has already dropped; the decode step is held off until then. -/
def Obligations.PendingLatchIsServedFirst : Prop :=
  ∀ s : State, s.cfg.valid = true → s.sl.lpend = true → s.sl.phase = .idle →
    s.ut.phase ≠ .send → s.ut.phase ≠ .sample →
    Does .block s fun t =>
      t = { s with
        sl := { s.sl with
          sh := s.sl.shiftByte, pos := 7, dataOut := s.sl.shiftByte.getLsbD 7, wdt := s.cfg.wdtTicks, lpend := false,
          phase := if s.sl.latchLvl then .waitLatchFall else .shift }
        env := { s.env with moves := t.env.moves } }

/-- A clock falling edge in SL_SHIFT presents the next bit and rearms the watchdog, or, at the 8th, releases the line,
ends the transaction and raises HOSTPOLLED (43_slave_emulator R190). That sh and pos keep their values at the end is
DEDUCED (log 10), and the label and the count are the model's history (log 8). -/
def Obligations.ClockFallShiftsOrCompletes : Prop :=
  ∀ s : State, s.cfg.valid = true → s.sl.phase = .shift → s.sl.clkLvl = true →
    (∀ p : Nat, s.sl.pos.val = p + 1 → Does (.clk false) s fun t =>
      t.sl.pos.val = p ∧
      t = { s with
        sl := { s.sl with pos := t.sl.pos, dataOut := s.sl.sh.getLsbD p, wdt := s.cfg.wdtTicks, clkLvl := false }
        env := { s.env with clkIn := false, moves := t.env.moves } }) ∧
    (s.sl.pos.val = 0 → Does (.clk false) s fun t =>
      t = { s with
        sl := { s.sl with dataOut := s.cfg.dataIdle, phase := .idle, clkLvl := false }
        ps := (hostPolled s).ps
        hist := ⟨some .completed, s.hist.hostPolls + 1⟩
        env := { s.env with clkIn := false, moves := t.env.moves } })

/-- Edges SL does not wait for (43_slave_emulator R191, R192): a falling edge outside SL_SHIFT and every rising edge change
only clk_lvl. An input set to the level SL last saw is no event (R184; where that level is not the input's, which no run
reaches, this is DEDUCED, log 7). -/
def Obligations.IgnoredEdgesChangeOnlyTheLevel : Prop :=
  (∀ s : State, s.cfg.valid = true → s.sl.phase ≠ .shift →
    Does (.clk false) s fun t =>
      t = { s with sl := { s.sl with clkLvl := false }, env := { s.env with clkIn := false, moves := t.env.moves } }) ∧
  (∀ s : State, s.cfg.valid = true →
    Does (.clk true) s fun t =>
      t = { s with sl := { s.sl with clkLvl := true }, env := { s.env with clkIn := true, moves := t.env.moves } }) ∧
  (∀ s : State, s.cfg.valid = true →
    (Does (.latch s.sl.latchLvl) s fun t => t.sl = s.sl ∧ t.ps = s.ps ∧ t.hist = s.hist) ∧
    (Does (.clk s.sl.clkLvl) s fun t => t.sl = s.sl ∧ t.ps = s.ps ∧ t.hist = s.hist))

/-- The watchdog (43_slave_emulator R193, R194): it counts down while SL is active and not otherwise; at its last tick the
transaction ends by ClockTimeout, and HOSTPOLLED is raised, on the elapsed count of this TICK, only if
RECORD_ON_ABORT = 1. Nothing of it reaches RS or the port (R198). That sh and pos keep their values at the end is
DEDUCED (log 10), and the label and the count are the model's history (log 8). -/
def Obligations.WatchdogEndsAStalledTransaction : Prop :=
  ∀ s : State, s.cfg.valid = true →
    let counted : Ps :=
      if s.ps.elapsed = 2 ^ s.cfg.elapsedW - 1 then { s.ps with elapsed := 0, ovf := true }
      else { s.ps with elapsed := s.ps.elapsed + 1 }
    Does .tick s fun t =>
      (s.sl.phase = .idle → t.sl = s.sl ∧ t.hist = s.hist) ∧
      (s.sl.phase ≠ .idle → 1 < s.sl.wdt → t.sl = { s.sl with wdt := s.sl.wdt - 1 } ∧ t.hist = s.hist) ∧
      (s.sl.phase ≠ .idle → s.sl.wdt = 1 →
        t.sl = { s.sl with wdt := 0, dataOut := s.cfg.dataIdle, phase := .idle } ∧
        t.hist = ⟨some .clockTimeout, s.hist.hostPolls + s.cfg.recordOnAbort.toNat⟩ ∧
        t.ps = (if s.cfg.recordOnAbort = true then (hostPolled { s with ps := counted }).ps else counted)) ∧
      t.rs = s.rs ∧ t.port = s.port

/-- The frame law (43_slave_emulator R195), whole, with any ticks between the edges that let no watchdog expire: the bits come
out most significant first, the line idles after the 8th falling edge, and one HOSTPOLLED was raised. The label and the
count that say so are the model's history (log 8). -/
def Obligations.TransactionServesTheByteMsbFirst : Prop :=
  ∀ (s : State) (a b : Nat) (pulses : List (Nat × Nat)),
    Inv s → s.sl.phase = .idle → s.ut.phase ≠ .send → s.ut.phase ≠ .sample →
    s.sl.latchLvl = false → s.sl.clkLvl = true →
    a < s.cfg.wdtTicks → b < s.cfg.wdtTicks → (∀ p ∈ pulses, p.1 + p.2 < s.cfg.wdtTicks) → pulses.length ≤ 8 →
    (∃ t, Leads [.latch true] s t ∧ t.sl.dataOut = s.sl.shiftByte.getLsbD 7 ∧ t.sl.sh = s.sl.shiftByte) ∧
    ∃ t, Leads (latchPulseMoves a b ++ pulseMoves pulses) s t ∧
      (pulses.length ≤ 7 →
        t.sl.phase = .shift ∧ t.sl.dataOut = s.sl.shiftByte.getLsbD (7 - pulses.length) ∧
        t.hist = s.hist) ∧
      (pulses.length = 8 →
        t.sl.phase = .idle ∧ t.sl.dataOut = s.cfg.dataIdle ∧
        t.hist = ⟨some .completed, s.hist.hostPolls + 1⟩)

/-- Bounded handler (43_slave_emulator R196): a run of an active SL that holds 9 * WDT_TICKS TICKs and no latch rising edge has
a point at which SL is idle. That the TICKs come is the premise (log 19). -/
def Obligations.TransactionEndsWithinNineWatchdogs : Prop :=
  ∀ (ms : List Move) (s t : State), Inv s → s.sl.phase ≠ .idle → Leads ms s t →
    (∀ (n : Nat) (u : State), Leads (ms.take n) s u → ms[n]? = some (.latch true) → u.sl.latchLvl = true) →
    9 * s.cfg.wdtTicks ≤ ms.count .tick →
    ∃ (n : Nat) (u : State), n ≤ ms.length ∧ Leads (ms.take n) s u ∧ u.sl.phase = .idle

/-- The byte being shifted is a copy (20_memory R76, 43_slave_emulator R197): no step changes sh but one that starts a transaction,
which takes it whole from shift_byte, or RESET; and no step changes shift_byte but SETBYTE or RESET. That the end of a
transaction keeps sh is DEDUCED (log 10), and so is the bit START presents (log 6). -/
def Obligations.ShiftedByteIsTakenWholeAtStart : Prop :=
  ∀ s t : State, step s = .next t → s.env.moves.head? ≠ some .reset →
    (t.sl.sh ≠ s.sl.sh → t.sl.sh = s.sl.shiftByte ∧ t.sl.pos = 7 ∧ t.sl.phase ≠ .idle ∧
      t.sl.dataOut = s.sl.shiftByte.getLsbD 7) ∧
    (t.sl.shiftByte ≠ s.sl.shiftByte →
      (s.env.moves = [] ∨ s.env.moves.head? = some .block) ∧ portReady s = true ∧
      ∃ w rest, s.env.cmds = w :: rest ∧ decode w = .ok (.setbyte t.sl.shiftByte))

/-- The handler has no path to the main loop's state and the main loop none to the handler's but the single-byte handoff
(60_exceptions R221, 70 R246). -/
def Obligations.HandlerAndMainLoopAreSeparate : Prop :=
  (∀ (s t : State) (v : Bool), s.env.moves.head? = some (.latch v) ∨ s.env.moves.head? = some (.clk v) →
    step s = .next t →
    t.ut = s.ut ∧ t.rs = s.rs ∧ t.port = s.port ∧ t.sl.shiftByte = s.sl.shiftByte ∧ t.env.cmds = s.env.cmds) ∧
  (∀ (s t : State) (i : Instr), exec i s = .next t →
    t.sl = { s.sl with shiftByte := t.sl.shiftByte } ∧ t.hist = s.hist ∧ t.ps.elapsed = s.ps.elapsed ∧
    t.ps.ovf = s.ps.ovf ∧ t.ps.threshold = s.ps.threshold)

/-- The latch interrupt is masked in the atomic section (20_memory R63, 60_exceptions R215): while SL is idle there, no move
but RESET makes SL take a step; only LPEND and the last seen levels can change. -/
def Obligations.AtomicSectionMasksTheHandler : Prop :=
  ∀ s t : State, step s = .next t → (s.ut.phase = .send ∨ s.ut.phase = .sample) → s.sl.phase = .idle →
    s.env.moves.head? ≠ some .reset →
    t.sl = { s.sl with lpend := t.sl.lpend, latchLvl := t.sl.latchLvl, clkLvl := t.sl.clkLvl } ∧
    (s.sl.lpend = true → t.sl.lpend = true) ∧ t.ps.threshold = s.ps.threshold ∧ t.ps.mode = s.ps.mode ∧
    t.rs = s.rs ∧ t.port = s.port

/-! ## The whole machine -/

/-- RESET (70_reset_and_hazards R240) with the reset column of 10_state R20: every register by its value. A command in
progress gets no response, and the environment is not reset: the levels by R240, the words that wait on the port and
the moves to come by the model's choice (log 16). -/
def Obligations.ResetSetsEveryRegister : Prop :=
  ∀ s : State, s.cfg.valid = true →
    Does .reset s fun t =>
      t.cfg = s.cfg ∧
      t.ut = ⟨.idle, .poll, .released, [], 0, [], true, 0, false⟩ ∧
      t.rs = ⟨#v[0#8, 0#8, 0#8, 0#8, 0#8, 0#8, 0#8, 0#8], #v[0#8, 0#8, 0#8, 0#8, 0#8, 0#8, 0#8, 0#8], true⟩ ∧
      t.ps = ⟨0, false, s.cfg.defaultThr, .waiting⟩ ∧
      t.sl = ⟨s.cfg.shiftReset, s.cfg.shiftReset, 7, .idle, 0, s.cfg.dataIdle, false, s.env.latchIn, s.env.clkIn⟩ ∧
      t.port.cmdPending = none ∧ (s.port.cmdPending ≠ none → t.port.rsp = none) ∧
      t.env = { s.env with moves := t.env.moves }

/-- The invariant holds after RESET, for every valid configuration and in every environment. -/
def Obligations.InvariantHoldsAfterReset : Prop :=
  ∀ (c : Params) (e : Env), c.valid = true → Inv (State.resetWith c e)

/-- Every step keeps the invariant: R199's four laws, R118, R75, the widths of R20, cmd_pending, and DATA's width. -/
def Obligations.EveryStepKeepsTheInvariant : Prop :=
  ∀ s t : State, Inv s → step s = .next t → Inv t

/-- PERI_DRIVE (40_transceiver R116) writes the peripheral's output and nothing else, at any time, and ubus is low iff
someone drives low (10_state R39). -/
def Obligations.PeripheralDrivesTheOpenDrainLine : Prop :=
  (∀ (s : State) (v : Drive), s.cfg.valid = true →
    Does (.peri v) s fun t => t = { s with env := { s.env with periDrive := v, moves := t.env.moves } }) ∧
  (∀ s : State, ubus s = false ↔ s.ut.drive = .low ∨ s.env.periDrive = .low)
end

