-- ==== Sys2Proof/Laws/Units.lean ====
section
/-! SUPPORT. What the parts of a TICK, the host's events, the block's step and a whole step can do and what they leave
alone; the send waveform; and runs over a list of moves. -/

namespace Sys2Proof.Machine

/-! ### The parts of a TICK -/

@[simp] theorem utTick_cfg (s : State) : (utTick s).cfg = s.cfg := by simp only [utTick]; split <;> rfl
@[simp] theorem utTick_rs (s : State) : (utTick s).rs = s.rs := by simp only [utTick]; split <;> rfl
@[simp] theorem utTick_ps (s : State) : (utTick s).ps = s.ps := by simp only [utTick]; split <;> rfl
@[simp] theorem utTick_sl (s : State) : (utTick s).sl = s.sl := by simp only [utTick]; split <;> rfl
@[simp] theorem utTick_port (s : State) : (utTick s).port = s.port := by simp only [utTick]; split <;> rfl
@[simp] theorem utTick_env (s : State) : (utTick s).env = s.env := by simp only [utTick]; split <;> rfl
@[simp] theorem utTick_hist (s : State) : (utTick s).hist = s.hist := by simp only [utTick]; split <;> rfl

/-- Outside UT_SEND and UT_SAMPLE a TICK has no part for UT (40_transceiver R113, R117). -/
theorem utTick_outside {s : State} (h : s.ut.phase = .idle ∨ s.ut.phase = .decode) : utTick s = s := by
  rcases h with h | h <;> simp [utTick, h]

@[simp] theorem psTick_cfg (s : State) : (psTick s).cfg = s.cfg := by simp only [psTick]; split <;> rfl
@[simp] theorem psTick_ut (s : State) : (psTick s).ut = s.ut := by simp only [psTick]; split <;> rfl
@[simp] theorem psTick_rs (s : State) : (psTick s).rs = s.rs := by simp only [psTick]; split <;> rfl
@[simp] theorem psTick_sl (s : State) : (psTick s).sl = s.sl := by simp only [psTick]; split <;> rfl
@[simp] theorem psTick_port (s : State) : (psTick s).port = s.port := by simp only [psTick]; split <;> rfl
@[simp] theorem psTick_env (s : State) : (psTick s).env = s.env := by simp only [psTick]; split <;> rfl
@[simp] theorem psTick_hist (s : State) : (psTick s).hist = s.hist := by simp only [psTick]; split <;> rfl

/-- All that SL's part of a TICK can do: nothing where SL is idle, a watchdog tick, or the expiry. The last case, an active
SL with no watchdog ticks left, is in no state that meets R199. -/
theorem slTick_cases (s : State) :
    (slTick s = s ∧ s.sl.phase = .idle) ∨
    (slTick s = { s with sl := { s.sl with wdt := s.sl.wdt - 1 } } ∧ s.sl.phase ≠ .idle ∧ 1 < s.sl.wdt) ∨
    (slTick s = hostPolledOnAbort (handlerReturn .clockTimeout { s with sl := { s.sl with wdt := 0 } }) ∧
      s.sl.phase ≠ .idle ∧ s.sl.wdt = 1) ∨
    (slTick s = s ∧ s.sl.phase ≠ .idle ∧ s.sl.wdt = 0) := by
  by_cases h : s.sl.phase = .idle
  · exact .inl ⟨by simp [slTick, h], h⟩
  · by_cases h1 : 1 < s.sl.wdt
    · exact .inr (.inl ⟨by simp [slTick, h, h1], h, h1⟩)
    · by_cases h2 : s.sl.wdt = 1
      · exact .inr (.inr (.inl ⟨by simp [slTick, h, h2], h, h2⟩))
      · exact .inr (.inr (.inr ⟨by simp [slTick, h, h1, h2], h, by omega⟩))

@[simp] theorem hostPolledOnAbort_cfg (s : State) : (hostPolledOnAbort s).cfg = s.cfg := by
  rcases hostPolledOnAbort_cases s with ⟨_, h⟩ | ⟨_, h⟩ <;> simp [h]
@[simp] theorem hostPolledOnAbort_ut (s : State) : (hostPolledOnAbort s).ut = s.ut := by
  rcases hostPolledOnAbort_cases s with ⟨_, h⟩ | ⟨_, h⟩ <;> simp [h]
@[simp] theorem hostPolledOnAbort_rs (s : State) : (hostPolledOnAbort s).rs = s.rs := by
  rcases hostPolledOnAbort_cases s with ⟨_, h⟩ | ⟨_, h⟩ <;> simp [h]
@[simp] theorem hostPolledOnAbort_sl (s : State) : (hostPolledOnAbort s).sl = s.sl := by
  rcases hostPolledOnAbort_cases s with ⟨_, h⟩ | ⟨_, h⟩ <;> simp [h]
@[simp] theorem hostPolledOnAbort_port (s : State) : (hostPolledOnAbort s).port = s.port := by
  rcases hostPolledOnAbort_cases s with ⟨_, h⟩ | ⟨_, h⟩ <;> simp [h]
@[simp] theorem hostPolledOnAbort_env (s : State) : (hostPolledOnAbort s).env = s.env := by
  rcases hostPolledOnAbort_cases s with ⟨_, h⟩ | ⟨_, h⟩ <;> simp [h]
@[simp] theorem hostPolledOnAbort_transEnd (s : State) : (hostPolledOnAbort s).hist.transEnd = s.hist.transEnd := by
  rcases hostPolledOnAbort_cases s with ⟨_, h⟩ | ⟨_, h⟩ <;> simp [h]

@[simp] theorem slTick_cfg (s : State) : (slTick s).cfg = s.cfg := by
  rcases slTick_cases s with ⟨h, -⟩ | ⟨h, -⟩ | ⟨h, -⟩ | ⟨h, -⟩ <;> simp [h]
@[simp] theorem slTick_ut (s : State) : (slTick s).ut = s.ut := by
  rcases slTick_cases s with ⟨h, -⟩ | ⟨h, -⟩ | ⟨h, -⟩ | ⟨h, -⟩ <;> simp [h]
@[simp] theorem slTick_rs (s : State) : (slTick s).rs = s.rs := by
  rcases slTick_cases s with ⟨h, -⟩ | ⟨h, -⟩ | ⟨h, -⟩ | ⟨h, -⟩ <;> simp [h]
@[simp] theorem slTick_port (s : State) : (slTick s).port = s.port := by
  rcases slTick_cases s with ⟨h, -⟩ | ⟨h, -⟩ | ⟨h, -⟩ | ⟨h, -⟩ <;> simp [h]
@[simp] theorem slTick_env (s : State) : (slTick s).env = s.env := by
  rcases slTick_cases s with ⟨h, -⟩ | ⟨h, -⟩ | ⟨h, -⟩ | ⟨h, -⟩ <;> simp [h]

@[simp] theorem tick_cfg (s : State) : (tick s).cfg = s.cfg := by simp [tick]
@[simp] theorem tick_rs (s : State) : (tick s).rs = s.rs := by simp [tick]
@[simp] theorem tick_port (s : State) : (tick s).port = s.port := by simp [tick]
@[simp] theorem tick_env (s : State) : (tick s).env = s.env := by simp [tick]

/-- UT's registers after a TICK are those its own rule leaves (90 C8). -/
theorem tick_ut (s : State) : (tick s).ut = (utTick s).ut := by simp [tick]

/-- While SL is idle a TICK leaves SL and the history alone, and PS only counts. -/
theorem tick_idle {s : State} (h : s.sl.phase = .idle) : tick s = psTick (utTick s) := by
  have h' : (psTick (utTick s)).sl.phase = .idle := by simpa using h
  rcases slTick_cases (psTick (utTick s)) with ⟨e, -⟩ | ⟨-, hn, -⟩ | ⟨-, hn, -⟩ | ⟨-, hn, -⟩
  · exact e
  all_goals exact absurd h' hn

/-! ### Events of the host -/

/-- All that a move of latch_in can do. -/
theorem latchIn_cases (v : Bool) (s : State) :
    (latchIn v s = seeLatch v s ∧ v = s.sl.latchLvl) ∨
    (latchIn v s = { seeLatch v s with sl := { s.sl with latchLvl := v, lpend := true } } ∧
      s.sl.latchLvl = false ∧ v = true ∧ atomicSection s = true) ∨
    (latchIn v s = startTransaction (seeLatch v s) ∧
      s.sl.latchLvl = false ∧ v = true ∧ atomicSection s = false ∧ s.sl.phase = .idle) ∨
    (latchIn v s = seeLatch v s ∧
      s.sl.latchLvl = false ∧ v = true ∧ atomicSection s = false ∧ s.sl.phase = .waitLatchFall) ∨
    (latchIn v s = startTransaction (hostPolledOnAbort (labelEnd .latchAbort (seeLatch v s))) ∧
      s.sl.latchLvl = false ∧ v = true ∧ atomicSection s = false ∧ s.sl.phase = .shift) ∨
    (latchIn v s =
        { seeLatch v s with sl := { s.sl with latchLvl := v, phase := .shift, wdt := s.cfg.wdtTicks } } ∧
      s.sl.latchLvl = true ∧ v = false ∧ s.sl.phase = .waitLatchFall) ∨
    (latchIn v s = seeLatch v s ∧ s.sl.latchLvl = true ∧ v = false ∧ s.sl.phase ≠ .waitLatchFall) := by
  have ha' : atomicSection (seeLatch v s) = atomicSection s := rfl
  cases v <;> cases hl : s.sl.latchLvl <;> cases hp : s.sl.phase <;> cases ha : atomicSection s <;>
    simp [latchIn, latchRise, latchFall, hl, hp, ha', ha]

/-- All that a move of clk_in can do. -/
theorem clkIn_cases (v : Bool) (s : State) :
    (clkIn v s = seeClk v s ∧ (v = true ∨ s.sl.clkLvl = false ∨ s.sl.phase ≠ .shift)) ∨
    (clkIn v s = hostPolled (handlerReturn .completed (seeClk v s)) ∧
      v = false ∧ s.sl.clkLvl = true ∧ s.sl.phase = .shift ∧ s.sl.pos = 0) ∨
    (clkIn v s =
        { seeClk v s with
          sl := { s.sl with
            clkLvl := v, pos := s.sl.pos - 1, dataOut := s.sl.sh.getLsbD (s.sl.pos - 1).val,
            wdt := s.cfg.wdtTicks } } ∧
      v = false ∧ s.sl.clkLvl = true ∧ s.sl.phase = .shift ∧ s.sl.pos ≠ 0) := by
  by_cases h0 : s.sl.pos = 0 <;> cases v <;> cases hl : s.sl.clkLvl <;> cases hp : s.sl.phase <;>
    simp [clkIn, clkFall, hl, hp, h0]

/-! ### The block's step, and a whole step -/

/-- All that the block's step can do. -/
theorem blockStep_cases {s t : State} (h : blockStep s = .next t) :
    (serviceEnabled s = true ∧ t = startTransaction s) ∨
    (serviceEnabled s = false ∧ decodeEnabled s = true ∧ t = utDecode s) ∨
    (serviceEnabled s = false ∧ decodeEnabled s = false ∧ (s.env.cmds = [] ∨ portReady s = false) ∧ t = s) ∨
    (∃ w rest i, portReady s = true ∧ s.env.cmds = w :: rest ∧ decode w = .ok i ∧
      exec i { s with env := { s.env with cmds := rest } } = .next t) ∨
    (∃ w rest e, portReady s = true ∧ s.env.cmds = w :: rest ∧ decode w = .error e ∧
      t = respond .illegalCommand 0 { s with env := { s.env with cmds := rest } }) := by
  cases h1 : serviceEnabled s
  · cases h2 : decodeEnabled s
    · simp only [blockStep, h1, h2, Bool.false_eq_true, if_false, acceptCommand] at h
      split at h
      next hc =>
        cases h
        exact .inr (.inr (.inl ⟨rfl, rfl, .inl hc, rfl⟩))
      next w rest hc =>
        split_ifs at h with hr
        · split at h
          next i hd => exact .inr (.inr (.inr (.inl ⟨w, rest, i, hr, hc, hd, h⟩)))
          next e hd =>
            cases h
            exact .inr (.inr (.inr (.inr ⟨w, rest, e, hr, hc, hd, rfl⟩)))
        · cases h
          exact .inr (.inr (.inl ⟨rfl, rfl, .inr (by simpa using hr), rfl⟩))
    · simp only [blockStep, h1, h2, Bool.false_eq_true, if_false, if_true] at h
      cases h
      exact .inr (.inl ⟨rfl, rfl, rfl⟩)
  · simp only [blockStep, h1, if_true] at h
    cases h
    exact .inl ⟨rfl, rfl⟩

/-- All that a step can do: the machine is valid, and it takes the block's step or performs the next move. -/
theorem step_cases {s t : State} (h : step s = .next t) :
    s.cfg.valid = true ∧
    ((s.env.moves = [] ∧ blockStep s = .next t) ∨
      ∃ m rest, s.env.moves = m :: rest ∧ perform m (s.withMoves rest) = .next t) := by
  simp only [step, advance] at h
  split_ifs at h with hv
  refine ⟨hv, ?_⟩
  split at h
  next hm => exact .inl ⟨hm, h⟩
  next m rest hm => exact .inr ⟨m, rest, hm, h⟩

/-- What the decode step answers and what it leaves alone. -/
theorem answerTransaction_frame (op : UtOp) (v : Except Status Report) (s : State) :
    (answerTransaction op v s).cfg = s.cfg ∧ (answerTransaction op v s).ut = s.ut ∧
    (answerTransaction op v s).ps = s.ps ∧ (answerTransaction op v s).sl = s.sl ∧
    (answerTransaction op v s).env = s.env ∧ (answerTransaction op v s).hist = s.hist ∧
    (answerTransaction op v s).rs.lastSent = s.rs.lastSent ∧ (answerTransaction op v s).rs.first = s.rs.first ∧
    (answerTransaction op v s).port.cmdPending = none := by
  cases op <;> cases v <;> simp [answerTransaction]

/-! ### The send waveform and the derived parameters -/

theorem frameSegs_ne_nil (c : Params) (frame n : Nat) : ∃ g rest, frameSegs c frame n = g :: rest := by
  cases n with
  | zero => exact ⟨_, _, rfl⟩
  | succ n =>
    simp only [frameSegs, symbolSegs]
    split <;> exact ⟨_, _, rfl⟩

/-- Every segment of a valid configuration lasts between one tick and T_LONG. -/
theorem frameSegs_ticks {c : Params} (hv : c.valid = true) (frame n : Nat) :
    ∀ g ∈ frameSegs c frame n, 1 ≤ g.ticks ∧ g.ticks ≤ c.tLong := by
  have h := (valid_iff c).1 hv
  induction n with
  | zero => simp [frameSegs]; omega
  | succ n ih =>
    intro g hg
    simp only [frameSegs, symbolSegs] at hg
    split at hg <;> simp at hg <;> rcases hg with rfl | rfl | hg <;> first | exact ih _ hg | (simp; omega)

theorem smax_pos {c : Params} (hv : c.valid = true) : 1 ≤ c.smax := by
  have h : 2 ^ 1 ≤ 2 ^ c.sampleW := Nat.pow_le_pow_right (by omega) ((valid_iff c).1 hv).2.1
  simp only [Params.smax]
  omega

theorem byte_fits_dataW (c : Params) : 2 ^ 8 ≤ 2 ^ c.dataW :=
  Nat.pow_le_pow_right (by omega) (by simp [Params.dataW])

theorem elapsed_fits_dataW (c : Params) : 2 ^ c.elapsedW ≤ 2 ^ c.dataW :=
  Nat.pow_le_pow_right (by omega) (by simp [Params.dataW])

/-! ### Runs -/

/-- The rest of the schedule takes no part in a move. -/
theorem perform_withMoves {m : Move} {s t : State} (ms : List Move) (h : perform m s = .next t) :
    perform m (s.withMoves ms) = .next (t.withMoves ms) := by
  cases m with
  | block => exact blockStep_withMoves ms h
  | tick => cases h; simp only [perform, tick_withMoves]
  | latch v => cases h; simp only [perform, latchIn_withMoves]
  | clk v => cases h; simp only [perform, clkIn_withMoves]
  | _ => cases h; rfl

theorem leads_withMoves (ms ns : List Move) (s t : State) : Leads ms (s.withMoves ns) t ↔ Leads ms s t := Iff.rfl

/-- A wave that is closed is one that holds the level after it for one TICK more. -/
theorem waveMoves_eq_holdMoves (v : Drive) (ns : List Nat) : waveMoves v ns = holdMoves v (ns ++ [1]) := by
  induction ns generalizing v with
  | nil => rfl
  | cons n ns ih => simp [waveMoves, holdMoves, ih]

/-- A run of a valid machine is its first move and then the rest of the run. -/
theorem leads_cons_iff {m : Move} {ms : List Move} {s u : State} (hv : s.cfg.valid = true) :
    Leads (m :: ms) s u ↔ ∃ t, perform m s = .next t ∧ Leads ms t u := by
  obtain ⟨t, ht⟩ := perform_next m s
  constructor
  · intro h
    refine ⟨t, ht, ?_⟩
    simp only [Leads, List.length_cons, Host.Core.run, core_step_move hv, perform_withMoves ms ht] at h
    exact h
  · rintro ⟨t', ht', hr⟩
    cases ht.symm.trans ht'
    exact leads_cons hv (perform_withMoves ms ht) hr

end Sys2Proof.Machine
end

