-- ==== Sys2Proof/Tests/Slice0.lean ====
section
/-! SUPPORT. Small tests with expected values from the spec's test vectors (95) and encodings (30_encoding), the refusals of
ill-formed terms, and for each statement with hypotheses a concrete state and operands that meet them together. -/

namespace Sys2Proof.Tests

open Sys2Proof Sys2Proof.Machine

/-- The outcome is a next state that passes the check. -/
def goes (o : Host.Outcome State Fault Refusal) (check : State → Bool) : Bool :=
  match o with
  | .next t => check t
  | .fault _ => false
  | .refused _ => false

/-- The outcome is a next state with this answer on rsp, which passes the check. -/
def answers (o : Host.Outcome State Fault Refusal) (status : Status) (data : Nat) (check : State → Bool) : Bool :=
  goes o fun t => t.port.rsp == some ⟨status, data⟩ && check t

/-- The report of frame F (95): 10 80 7F 80 80 80 20 20. -/
def reportF : Report := #v[0x10#8, 0x80#8, 0x7F#8, 0x80#8, 0x80#8, 0x80#8, 0x20#8, 0x20#8]

/-- The state after RESET with other registers of PS. -/
def withPs (p : Ps) : State := { State.reset with ps := p }

/-- The state after RESET with other registers of SL. -/
def withSl (x : Sl) : State := { State.reset with sl := x, env := { Env.quiet with latchIn := x.latchLvl, clkIn := x.clkLvl } }

/-- The state after RESET with other registers of UT, and its POLL in progress unless UT is idle. -/
def withUt (u : Ut) : State :=
  { State.reset with ut := u, port := ⟨if u.phase = .idle then none else some 0x0200#16, none⟩ }

/-- The state after RESET with other banks. -/
def withRs (r : Rs) : State := { State.reset with rs := r }

/-- The state after RESET with these words waiting on the command port. -/
def offered (ws : List Word) : State := { State.reset with env := { Env.quiet with cmds := ws } }

/-- UT in UT_SEND, with this much left of the segment and of the list. -/
def sending (left : Nat) (segs : List Segment) : State :=
  withUt ⟨.send, .poll, .low, segs, left, [], true, 0, false⟩

/-- UT in UT_SAMPLE. -/
def sampling (samples : List Nat) (cur : Bool) (cnt : Nat) : State :=
  withUt ⟨.sample, .poll, .released, [], 0, samples, cur, cnt, false⟩

/-- UT in UT_DECODE. -/
def decoding (samples : List Nat) (timedOut : Bool) : State :=
  withUt ⟨.decode, .poll, .released, [], 0, samples, true, 1, timedOut⟩

/-- SL in a transaction that serves 0xB4, with the watchdog at `wdt` and both lines at the given levels. -/
def serving (phase : SlPhase) (pos : Fin 8) (wdt : Nat) (latch clk : Bool) : State :=
  withSl ⟨0xB4#8, 0xB4#8, pos, phase, wdt, (0xB4#8).getLsbD pos.val, false, latch, clk⟩

/-- SL idle, with the byte 0xB4 to serve. -/
def loaded : State := withSl ⟨0xB4#8, 0xFF#8, 7, .idle, 0, true, false, false, true⟩

/-! ## Encodings -/

/-- 30_encoding R84, row INIT: OPC 0000_0001, ARG 0000_0000. -/
theorem test_decode_init : decode 0b0000000100000000#16 = .ok .init := by decide
/-- R84, row PROBE. -/
theorem test_decode_probe : decode 0b0000001100000000#16 = .ok .probe := by decide
/-- R84, row POLL. -/
theorem test_decode_poll : decode 0b0000001000000000#16 = .ok .poll := by decide
/-- R84, row CHANGED. -/
theorem test_decode_changed : decode 0b0001000000000000#16 = .ok .changed := by decide
/-- R84, row BUILD. -/
theorem test_decode_build : decode 0b0001000100000000#16 = .ok .build := by decide
/-- R84, row RDBUILT; V2.10 writes it as 0x1207 for #7. -/
theorem test_decode_rdbuilt : decode 0b0001001000000111#16 = .ok (.rdbuilt 7#3) := by decide
/-- R84, row RDSENT; V2.10 writes it as 0x1306 for #6. -/
theorem test_decode_rdsent : decode 0b0001001100000110#16 = .ok (.rdsent 6#3) := by decide
/-- R84, row MAYPOLL. -/
theorem test_decode_maypoll : decode 0b0010000000000000#16 = .ok .maypoll := by decide
/-- R84, row RDTHR. -/
theorem test_decode_rdthr : decode 0b0010000100000000#16 = .ok .rdthr := by decide
/-- R84, row RDELAPSED. -/
theorem test_decode_rdelapsed : decode 0b0010001000000000#16 = .ok .rdelapsed := by decide
/-- R84, row RDSCHED. -/
theorem test_decode_rdsched : decode 0b0010001100000000#16 = .ok .rdsched := by decide
/-- R84, row SETBYTE; V1.6 writes it as 0x30B4 for #0xB4. -/
theorem test_decode_setbyte : decode 0b0011000010110100#16 = .ok (.setbyte 0xB4#8) := by decide
/-- R84, row RDBYTE. -/
theorem test_decode_rdbyte : decode 0b0011000100000000#16 = .ok .rdbyte := by decide
/-- R84, row RDSLV. -/
theorem test_decode_rdslv : decode 0b0011001000000000#16 = .ok .rdslv := by decide

/-- V2.20, the illegal words. -/
theorem test_illegal_words :
    [0x0000#16, 0x0101#16, 0x0400#16, 0x1208#16, 0x12FF#16, 0x1408#16, 0x2001#16, 0x2400#16, 0x3201#16, 0x3300#16,
      0xFFFF#16].all (fun w => !legalWord w && (decode w).toOption.isNone) = true := by decide

/-- V2.20, the legal words at the bounds, and why three of the illegal ones are refused. -/
theorem test_decode_bounds :
    decode 0x1207#16 = .ok (.rdbuilt 7#3) ∧ decode 0x30FF#16 = .ok (.setbyte 0xFF#8) ∧
    decode 0x1208#16 = .error (.indexOutOfRange 0x12#8 0x08#8) ∧
    decode 0x2001#16 = .error (.argumentNotZero 0x20#8 0x01#8) ∧
    decode 0x3300#16 = .error (.unassignedOpcode 0x33#8) := by decide

/-- The words of P2 (95). -/
theorem test_encode :
    [Instr.maypoll, .poll, .changed, .build, .rdsent 0#3, .rdsent 7#3, .setbyte 0x5A#8, .rdthr, .rdelapsed, .rdsched,
      .rdslv].map encode =
    [0x2000#16, 0x0200#16, 0x1000#16, 0x1100#16, 0x1300#16, 0x1307#16, 0x305A#16, 0x2100#16, 0x2200#16, 0x2300#16,
      0x3200#16] := by decide

theorem test_decodeTableWord :
    decodeTableWord 16 0x1205 = some (.rdbuilt 5#3) ∧ decodeTableWord 16 0x0000 = none ∧
    decodeTableWord 16 0x10100 = none := by decide

/-! ## Ill-formed terms are refused -/

theorem test_cfgEx_valid : cfgEx.valid = true := by decide
theorem test_flaw_pulses : ({ cfgEx with tShort := 3 }).flaws = [.pulses] := by decide
theorem test_flaw_short_pulse : ({ cfgEx with tShort := 0 }).flaws = [.pulses] := by decide
theorem test_flaw_sampleWidth : ({ cfgEx with sampleW := 0 }).flaws = [.sampleWidth] := by decide
theorem test_flaw_pollWindow : ({ cfgEx with pollDur := 65536 - 666 }).flaws = [.pollWindow] := by decide
theorem test_flaw_defaultThreshold : ({ cfgEx with defaultThr := 65536 }).flaws = [.defaultThreshold] := by decide
theorem test_flaw_minimumIdle : ({ cfgEx with minIdle := 65536 }).flaws = [.minimumIdle] := by decide
theorem test_flaw_watchdog : ({ cfgEx with wdtTicks := 0 }).flaws = [.watchdog] := by decide
theorem test_flaw_triggerPolarity : ({ cfgEx with invertMask := 0b101111#6 }).flaws = [.triggerPolarity] := by decide

/-- 93 A21: the machine refuses to step on a configuration that breaks a constraint. -/
theorem test_bad_configuration_refused :
    step { State.reset with cfg := { cfgEx with wdtTicks := 0 } } = .refused .badConfiguration := by rfl

/-- 30_encoding R99: an operand must be there, and fit, exactly where the ARG form has one. -/
theorem test_lines_refused :
    [ScriptLine.command .poll (some 0), .command .rdbuilt none, .command .rdbuilt (some 8), .command .rdsent (some 8),
      .command .setbyte none, .command .setbyte (some 256)].all
      (fun l => !l.wellFormed && (assemble l).isNone) = true := by decide

theorem test_lines_accepted :
    [ScriptLine.command .poll none, .command .rdbuilt (some 7), .command .setbyte (some 255)].map assemble =
    [some .poll, some (.rdbuilt 7#3), some (.setbyte 255#8)] := by decide

/-- A line of V1.6, a line of V1.7, and lines that are none. -/
theorem test_script_text :
    lineOfText "SETBYTE #0xB4  ; 0x30B4".toList = some [.command .setbyte (some 0xB4)] ∧
    lineOfText "@TICK*99".toList = some [.tick 99] ∧ lineOfText "@PERI REL".toList = some [.peri .released] ∧
    lineOfText "; nothing".toList = some [] ∧ lineOfText "JUMP #3".toList = none ∧
    lineOfText "@CLK 2".toList = none := by decide

theorem test_answerText : answerText ⟨.receiveTimeout, 0⟩ = "-> 1, 0".toList := by decide

/-! ## Commands -/

/-- V2.1. -/
theorem test_init :
    answers (exec .init (withUt ⟨.idle, .poll, .low, [], 0, [], true, 0, false⟩)) .ok 0
      (fun t => t.ut.drive == .released && ubus t) = true := by decide

/-- V2.2, the accept column: ubus is 0, for 3 ticks, and 48 segments follow. -/
theorem test_poll_accept :
    goes (exec .poll State.reset) (fun t => t.ut.phase == .send && !ubus t && t.ut.segLeft == 3 &&
      t.ut.segs.length == 48 && t.port.cmdPending == some 0x0200#16) = true := by decide

/-- V2.2, 97 ticks. -/
theorem test_send_ticks :
    ((frameSegs cfgEx cfgEx.cmdFrame cfgEx.cmdLen).map (·.ticks)).sum = 97 ∧ cfgEx.sendTicks = 97 := by decide

/-- R121. -/
theorem test_probe_accept :
    goes (exec .probe State.reset) (fun t => t.ut.op == .probe && t.ut.phase == .send &&
      t.port.cmdPending == some 0x0300#16) = true := by decide

/-- V1.3: the first CHANGED answers 1 on two zero banks. -/
theorem test_changed_first :
    answers (exec .changed State.reset) .ok 1 (fun t => !t.rs.first) = true := by decide

/-- V2.8: a difference is a change, and equal bytes are not. -/
theorem test_changed_differs :
    answers (exec .changed (withRs ⟨reportF, zeroReport, false⟩)) .ok 1 (fun t => t.rs.lastSent == zeroReport) = true ∧
    answers (exec .changed (withRs ⟨reportF, reportF, false⟩)) .ok 0 (fun _ => true) = true := by decide

/-- R141's example; V2.9: FIRST stays. -/
theorem test_build :
    answers (exec .build (withRs ⟨reportF, zeroReport, true⟩)) .ok 0
      (fun t => t.rs.lastSent == reportF && t.rs.first) = true := by decide

/-- R142's example, and V2.10. -/
theorem test_rdbuilt :
    answers (exec (.rdbuilt 2#3) (withRs ⟨reportF, zeroReport, true⟩)) .ok 0x7F (fun _ => true) = true ∧
    answers (exec (.rdbuilt 7#3) (withRs ⟨reportF, zeroReport, true⟩)) .ok 0x20 (fun _ => true) = true := by decide

/-- R143's example; P2 for #1. -/
theorem test_rdsent :
    answers (exec (.rdsent 6#3) (withRs ⟨zeroReport, reportF, true⟩)) .ok 0x20 (fun _ => true) = true ∧
    answers (exec (.rdsent 1#3) (withRs ⟨zeroReport, reportF, true⟩)) .ok 0x80 (fun _ => true) = true := by decide

/-- V1.4: 299 is below 300, and 300 is not. -/
theorem test_maypoll_threshold :
    answers (exec .maypoll (withPs ⟨299, false, 300, .waiting⟩)) .ok 0 (fun t => t.ps.mode == .waiting) = true ∧
    answers (exec .maypoll (withPs ⟨300, false, 300, .waiting⟩)) .ok 1
      (fun t => t.ps.mode == .ready && t.ps.elapsed == 300) = true := by decide

/-- V2.12: OVF counts as elapsed; V1.4: READY gets no second grant. -/
theorem test_maypoll_state :
    answers (exec .maypoll (withPs ⟨0, true, 300, .waiting⟩)) .ok 1 (fun _ => true) = true ∧
    answers (exec .maypoll (withPs ⟨5300, false, 300, .ready⟩)) .ok 0 (fun _ => true) = true := by decide

/-- V2.13. -/
theorem test_rdthr : answers (exec .rdthr State.reset) .ok 300 (fun _ => true) = true := by decide

/-- V2.12. -/
theorem test_rdelapsed :
    answers (exec .rdelapsed (withPs ⟨65535, false, 300, .waiting⟩)) .ok 65535 (fun _ => true) = true := by decide

/-- V2.12. -/
theorem test_rdsched :
    answers (exec .rdsched (withPs ⟨0, true, 300, .waiting⟩)) .ok 2 (fun _ => true) = true ∧
    answers (exec .rdsched (withPs ⟨0, true, 300, .ready⟩)) .ok 3 (fun _ => true) = true := by decide

/-- V2.15. -/
theorem test_setbyte :
    answers (exec (.setbyte 0x5A#8) State.reset) .ok 0
      (fun t => t.sl.shiftByte == 0x5A#8 && t.sl.sh == 0xFF#8) = true := by decide

/-- V2.15. -/
theorem test_rdbyte : answers (exec .rdbyte State.reset) .ok 255 (fun _ => true) = true := by decide

/-- V2.15: clk 1, latch 0, data 1. -/
theorem test_rdslv : answers (exec .rdslv State.reset) .ok 5 (fun _ => true) = true := by decide

/-! ## Steps and events -/

/-- A word laid where the next step takes it is run by that step, as the first command after reset. -/
theorem test_withFetchWord :
    answers (step (State.reset.withFetchWord 16 0x30B4)) .ok 0 (fun t => t.sl.shiftByte == 0xB4#8) = true ∧
    answers (step (State.reset.withFetchWord 16 0x3200)) .ok 5 (fun _ => true) = true ∧
    answers (step (State.reset.withFetchWord 16 0x1208)) .illegalCommand 0 (fun _ => true) = true := by decide

/-- V2.2: T3 raises the line, and T97 ends the send. -/
theorem test_send_tick :
    goes (perform .tick (sending 1 [⟨.released, 1⟩])) (fun t => ubus t && t.ut.phase == .send) = true ∧
    goes (perform .tick (sending 1 [])) (fun t => ubus t && t.ut.phase == .sample && t.ut.cnt == 0) = true := by decide

/-- V2.4: 255 is a count, and the 256th observation of one level is the timeout. -/
theorem test_sample_tick :
    goes (perform .tick (sampling [] true 254)) (fun t => t.ut.cnt == 255 && t.ut.phase == .sample) = true ∧
    goes (perform .tick (sampling [] true 255))
      (fun t => t.ut.timedOut && t.ut.samples == [] && t.ut.phase == .decode) = true ∧
    goes (perform .tick (sampling [5] false 255)) (fun t => t.ut.samples == [5, 255] && t.ut.curLevel) = true := by
  decide

/-- Frame F (95). -/
def samplesF : List Nat :=
  5 :: ([0x10#8, 0x80#8, 0x7F#8, 0x80#8, 0x80#8, 0x80#8, 0xDF#8, 0xDF#8].map fun b : Byte =>
    ((List.range 8).map fun i => if b.getLsbD (7 - i) then [1, 3] else [3, 1]).flatten).flatten

/-- Frame F, and V2.7: s[0] does not matter. -/
theorem test_decode_frameF :
    decodeReport cfgEx samplesF = some reportF ∧ decodeReport cfgEx (200 :: samplesF.tail) = some reportF := by decide +kernel

/-- V1.1: (10, 30), (30, 10) and the equal pair. -/
theorem test_decode_pairs :
    decodeReport cfgEx (7 :: (List.replicate 64 [10, 30]).flatten) =
      some #v[0xFF#8, 0xFF#8, 0xFF#8, 0xFF#8, 0xFF#8, 0xFF#8, 0x00#8, 0x00#8] ∧
    decodeReport cfgEx (7 :: (List.replicate 64 [30, 10]).flatten) =
      some #v[0x00#8, 0x00#8, 0x00#8, 0x00#8, 0x00#8, 0x00#8, 0xFF#8, 0xFF#8] ∧
    decodeReport cfgEx (9 :: (List.replicate 64 [4, 4]).flatten) =
      some #v[0x00#8, 0x00#8, 0x00#8, 0x00#8, 0x00#8, 0x00#8, 0xFF#8, 0xFF#8] := by decide +kernel

/-- V1.2: lengths 128, 130 and 0. -/
theorem test_decode_lengths :
    decodeReport cfgEx samplesF.dropLast = none ∧ decodeReport cfgEx (samplesF ++ [3]) = none ∧
    decodeReport cfgEx [] = none := by decide +kernel

/-- V2.3 and V2.6: the decode step of a POLL. -/
theorem test_decode_step :
    answers (perform .block (decoding samplesF false)) .ok 0
      (fun t => t.rs.lastBuilt == reportF && t.ut.phase == .idle && t.ut.samples == []) = true ∧
    answers (perform .block (decoding [] true)) .receiveTimeout 0 (fun t => t.rs.lastBuilt == zeroReport) = true := by
  decide +kernel

/-- V2.11, row by row: OVF, E, the threshold before and after. -/
theorem test_hostPolled :
    [(false, 5000, 300, 4001), (false, 599, 4001, 4001), (false, 500, 4001, 4001), (false, 600, 4001, 300),
      (false, 999, 4001, 300), (false, 1000, 4001, 300), (false, 1598, 4001, 300), (false, 1599, 300, 600),
      (false, 65535, 300, 64536), (true, 5000, 4001, 300)].all
      (fun r => (hostPolled (withPs ⟨r.2.1, r.1, r.2.2.1, .ready⟩)).ps == ⟨0, false, r.2.2.2, .waiting⟩) = true := by
  decide

/-- V2.12: the wrap. -/
theorem test_tick_wraps :
    goes (perform .tick (withPs ⟨65535, false, 300, .waiting⟩)) (fun t => t.ps.elapsed == 0 && t.ps.ovf) = true := by
  decide

/-- V1.6: the latch edge presents bit 7, fall 1 bit 6, and fall 8 ends the transaction. -/
theorem test_shift :
    goes (perform (.latch true) loaded) (fun t => t.sl.dataOut && t.sl.phase == .waitLatchFall) = true ∧
    goes (perform (.clk false) (serving .shift 7 100 false true)) (fun t => !t.sl.dataOut && t.sl.pos == 6) = true ∧
    goes (perform (.clk false) (serving .shift 0 100 false true))
      (fun t => t.sl.dataOut && t.sl.phase == .idle && t.hist.hostPolls == 1) = true := by decide

/-- V1.7: the re-latch, and a phantom clock after it. -/
theorem test_relatch :
    goes (perform (.latch true) (serving .shift 5 60 false true))
      (fun t => t.sl.dataOut && t.sl.phase == .waitLatchFall && t.sl.wdt == 100 && t.hist.hostPolls == 0) = true ∧
    goes (perform (.clk false) (serving .waitLatchFall 7 100 true true))
      (fun t => t.sl.dataOut && t.sl.pos == 7 && t.sl.phase == .waitLatchFall) = true := by decide

/-- V2.19 and P3: a latch edge in the atomic section waits, and is then served with the latch already low. -/
theorem test_pending_latch :
    goes (perform (.latch true) (sampling [] true 9)) (fun t => t.sl.lpend && t.sl.dataOut && t.sl.phase == .idle) = true ∧
    goes (perform .block { loaded with sl := { loaded.sl with shiftByte := 0x5A#8, lpend := true } })
      (fun t => t.sl.phase == .shift && !t.sl.dataOut && t.sl.wdt == 100 && !t.sl.lpend) = true := by decide

/-- V2.14: the expiry sees elapsed after the increment. -/
theorem test_watchdog :
    goes (perform .tick { serving .waitLatchFall 7 1 true true with
        cfg := { cfgEx with recordOnAbort := true }, ps := ⟨1598, false, 300, .waiting⟩ })
      (fun t => t.ps == ⟨0, false, 600, .waiting⟩ && t.sl.phase == .idle && t.sl.dataOut) = true := by decide

/-- R240: inputs that are high at reset give no edge. -/
theorem test_reset :
    goes (perform .reset { serving .shift 3 9 true true with ps := ⟨7, true, 9, .ready⟩ })
      (fun t => t.sl.phase == .idle && t.sl.latchLvl && t.ps == ⟨0, false, 300, .waiting⟩) = true := by decide

/-! ## Witnesses: the hypotheses of each statement, met together -/

theorem witness_ready : State.reset.cfg.valid = true ∧ portReady State.reset = true := by decide

/-- EncodeRestoresEveryDecodedWord. -/
theorem witness_decoded : ∃ w i, decode w = .ok i := ⟨0x1207#16, .rdbuilt 7#3, by decide⟩

/-- LegalWordsAreTheTableRows, its last clause, on the last word below the legal ones and the first above. -/
theorem witness_illegal_offered :
    ∀ w ∈ [0x0000#16, 0x00FF#16, 0x3300#16, 0xFFFF#16],
      (offered [w]).cfg.valid = true ∧ portReady (offered [w]) = true ∧ (offered [w]).env.cmds = [w] ∧
      ¬ ∃ i, decode w = .ok i := by
  have none_of :
      [0x0000#16, 0x00FF#16, 0x3300#16, 0xFFFF#16].all (fun w => (decode w).toOption.isNone) = true := by decide
  have cfg_of (ws : List Word) : (offered ws).cfg = cfgEx := rfl
  intro w h
  refine ⟨by rw [cfg_of]; exact test_cfgEx_valid, rfl, rfl, fun ⟨i, hi⟩ => ?_⟩
  have hn := List.all_eq_true.1 none_of w h
  rw [hi] at hn
  cases hn

/-- StepExecutesTheOfferedCommand. -/
theorem witness_offered :
    (offered [0x30FF#16, 0x0200#16]).cfg.valid = true ∧ portReady (offered [0x30FF#16, 0x0200#16]) = true ∧
    (offered [0x30FF#16, 0x0200#16]).env.cmds = 0x30FF#16 :: [0x0200#16] ∧
    decode 0x30FF#16 = .ok (.setbyte 0xFF#8) := by decide

/-- CommandsAndDecodeWaitAtTheGate: a closed gate by an active SL, by a pending latch, and a command in progress. -/
theorem witness_waiting :
    portReady (serving .shift 7 1 false true) = false ∧ (serving .shift 7 1 false true).cfg.valid = true ∧
    portReady { State.reset with sl := { State.reset.sl with lpend := true } } = false ∧
    portReady (sending 1 []) = false ∧ serviceEnabled (sending 1 []) = false ∧ decodeEnabled (sending 1 []) = false ∧
    (serving .waitLatchFall 7 1 true true).sl.phase ≠ .idle := by decide

/-- ValidMachineAlwaysGoesOn: both clauses. -/
theorem witness_validity : cfgEx.valid = true ∧ ({ cfgEx with wdtTicks := 0 }).valid = false := by decide

/-- InitReleasesTheLine, the clause in which it waits. -/
theorem witness_init_waits : (sending 1 []).ut.phase ≠ .idle := by decide

/-- InitReleasesTheLine, PollBeginsTheAtomicSection, ProbeBeginsTheAtomicSection: an accepted command. -/
theorem witness_accepted :
    portReady State.reset = true ∧ (∃ t, exec .init State.reset = .next t) ∧
    (∃ t, exec .poll State.reset = .next t) ∧ ∃ t, exec .probe State.reset = .next t :=
  ⟨by decide, ⟨_, rfl⟩, ⟨_, rfl⟩, ⟨_, rfl⟩⟩

/-- RdbuiltAnswersTheByte, RdsentAnswersTheByte: the words beside the legal ones. -/
theorem witness_index_words :
    0x1208 ≤ (0x1208#16).toNat ∧ (0x12FF#16).toNat ≤ 0x12FF ∧ 0x1308 ≤ (0x1308#16).toNat ∧
    (0x13FF#16).toNat ≤ 0x13FF := by decide

/-- MaypollGrantsFromWaitingAtThreshold: each clause at its bound. -/
theorem witness_maypoll :
    (let p := (withPs ⟨300, false, 300, .waiting⟩).ps
     p.mode = .waiting ∧ (p.ovf = true ∨ p.elapsed ≥ p.threshold)) ∧
    (let p := (withPs ⟨0, true, 300, .waiting⟩).ps
     p.mode = .waiting ∧ (p.ovf = true ∨ p.elapsed ≥ p.threshold)) ∧
    (let p := (withPs ⟨299, false, 300, .waiting⟩).ps
     ¬ (p.mode = .waiting ∧ (p.ovf = true ∨ p.elapsed ≥ p.threshold))) ∧
    (let p := (withPs ⟨300, false, 300, .ready⟩).ps
     ¬ (p.mode = .waiting ∧ (p.ovf = true ∨ p.elapsed ≥ p.threshold))) ∧
    portReady (withPs ⟨300, false, 300, .waiting⟩) = true := by decide

/-- SetbyteWritesTheShiftByte: its last clause. -/
theorem witness_setbyte_in_transaction : (serving .shift 0 1 false true).sl.phase ≠ .idle := by decide

/-- SlaveReadsAnswerTheRegisters. -/
theorem witness_slave_reads : portReady State.reset = true ∧ SlaveInvariant State.reset := by
  refine ⟨by decide, by decide, by decide, by decide, by decide, by decide⟩

/-- CommandSideEffects. -/
theorem witness_side_effects :
    Instr.rdslv ∈ [Instr.rdthr, .rdelapsed, .rdsched, .rdbyte, .rdslv] ∧ (∃ t, exec .rdslv State.reset = .next t) ∧
    (∃ k, Instr.rdbuilt 7#3 = .rdbuilt k ∨ Instr.rdbuilt 7#3 = .rdsent k) ∧
    (∃ t, exec (.rdbuilt 7#3) State.reset = .next t) ∧ Instr.build ∈ [Instr.init, .build] ∧
    ∃ t, exec .build State.reset = .next t :=
  ⟨by decide, ⟨_, rfl⟩, ⟨7#3, .inl rfl⟩, ⟨_, rfl⟩, by decide, ⟨_, rfl⟩⟩

/-- SendTickAdvancesTheWaveform: each clause. -/
theorem witness_send_tick :
    (let s := sending 2 []; s.cfg.valid = true ∧ s.ut.phase = .send ∧ 1 < s.ut.segLeft) ∧
    (let s := sending 1 [⟨.released, 1⟩]
     s.ut.phase = .send ∧ s.ut.segLeft ≤ 1 ∧ s.ut.segs = ⟨.released, 1⟩ :: []) ∧
    (let s := sending 1 []; s.ut.phase = .send ∧ s.ut.segLeft ≤ 1 ∧ s.ut.segs = []) := by decide

/-- SampleTickMeasuresTheLevel: each clause, the line being released, so high. -/
theorem witness_sample_tick :
    (let s := sampling [] true 0; s.cfg.valid = true ∧ s.ut.phase = .sample ∧ s.ut.cnt = 0) ∧
    (let s := sampling [] true 255; s.ut.cnt ≠ 0 ∧ true = s.ut.curLevel ∧ s.ut.cnt = 2 ^ s.cfg.sampleW - 1) ∧
    (let s := sampling [] true 254; s.ut.cnt ≠ 0 ∧ true = s.ut.curLevel ∧ s.ut.cnt ≠ 2 ^ s.cfg.sampleW - 1) ∧
    (let s := sampling (List.replicate 128 1) false 1
     s.ut.cnt ≠ 0 ∧ true ≠ s.ut.curLevel ∧ s.ut.samples.length = 128) ∧
    (let s := sampling (List.replicate 127 1) false 1
     s.ut.cnt ≠ 0 ∧ true ≠ s.ut.curLevel ∧ s.ut.samples.length ≠ 128) ∧
    decide ((sampling [] true 0).ut.drive = .low ∨ (sampling [] true 0).env.periDrive = .low) = false := by decide +kernel

/-- DecodeStepAnswersTheTransaction: a timeout, a report, a wrong length, and R118. -/
theorem witness_decode_step :
    (let s := decoding [5] true
     s.cfg.valid = true ∧ s.ut.phase = .decode ∧ s.sl.phase = .idle ∧ s.sl.lpend = false ∧ s.ut.timedOut = true) ∧
    (let s := decoding samplesF false
     s.ut.phase = .decode ∧ s.ut.timedOut = false ∧ decodeReport s.cfg s.ut.samples = some reportF) ∧
    (let s := decoding [5] false
     s.ut.phase = .decode ∧ s.ut.timedOut = false ∧ decodeReport s.cfg s.ut.samples = none) ∧
    PhaseInvariant (decoding samplesF false) := by
  refine ⟨by decide, by decide +kernel, by decide +kernel, by decide, by decide, by decide +kernel⟩

/-- DecodePlacesEveryWireBit: both clauses, and a bit at each end. -/
theorem witness_lengths :
    samplesF.dropLast.length ≠ 129 ∧ samplesF.length = 129 ∧ (0 < 8 ∧ 7 < 8) := by decide +kernel

/-- DecodingSeesOnlyTheOrderOfAPair. -/
theorem witness_same_order :
    let xs := 7 :: (List.replicate 64 [10, 30]).flatten
    let ys := 1 :: (List.replicate 64 [1, 2]).flatten
    xs.length = ys.length ∧
    (∀ k < 64, (xs.getD (2 * k + 1) 0 < xs.getD (2 * k + 2) 0 ↔ ys.getD (2 * k + 1) 0 < ys.getD (2 * k + 2) 0)) ∧
    ([9, 4, 4] : List Nat).getD (2 * 0 + 1) 0 = ([9, 4, 4] : List Nat).getD (2 * 0 + 2) 0 := by decide +kernel

/-- The state right after reset meets the invariant. -/
theorem witness_inv_reset : Inv State.reset := by
  refine ⟨by decide, ⟨rfl, rfl⟩, ⟨by decide, by decide⟩, ⟨by decide, by decide, by decide, by decide, by decide⟩,
    fun h => ?_, fun h => ?_, ⟨by decide, by decide, by decide, by decide, by decide, by decide⟩,
    ⟨by decide, by decide, by decide⟩, by decide, fun r h => ?_⟩
  all_goals cases h

/-- A transaction in progress, at its last bit and its last watchdog tick, meets the invariant. -/
theorem witness_inv_serving : Inv (serving .shift 0 1 false true) := by
  refine ⟨by decide, ⟨rfl, rfl⟩, ⟨by decide, by decide⟩, ⟨by decide, by decide, by decide, by decide, by decide⟩,
    fun h => ?_, fun h => ?_, ⟨by decide, by decide, by decide, by decide, by decide, by decide⟩,
    ⟨by decide, by decide, by decide⟩, by decide, fun r h => ?_⟩
  all_goals cases h

/-- SilentPeripheralTimesOut, SendLastsSendTicks, CompleteResponseIsMeasuredAndDecoded: the state, the command, and a
response with counts at both bounds. -/
theorem witness_response :
    Inv State.reset ∧ portReady State.reset = true ∧ Instr.probe ∈ [Instr.poll, .probe] ∧
    (let ns := 255 :: (List.replicate 64 [1, 255]).flatten
     ns.length = 129 ∧ ∀ n ∈ ns, 1 ≤ n ∧ n ≤ State.reset.cfg.smax) := by
  exact ⟨witness_inv_reset, by decide, by decide, by decide +kernel⟩

/-- ResponseCutShortTimesOut: no sample, and the most samples that are too few, at both bounds of a count. -/
theorem witness_cut_short :
    Inv State.reset ∧ portReady State.reset = true ∧ Instr.poll ∈ [Instr.poll, .probe] ∧
    (let p := ([] : List Nat); p.length < 129 ∧ ∀ n ∈ p, 1 ≤ n ∧ n ≤ State.reset.cfg.smax) ∧
    (let p := (List.replicate 64 [1, 255]).flatten
     p.length < 129 ∧ ∀ n ∈ p, 1 ≤ n ∧ n ≤ State.reset.cfg.smax) :=
  ⟨witness_inv_reset, by decide, by decide, by decide, by decide +kernel⟩

/-- HostPolledAdaptsTheThreshold: each branch at its bounds, with CFG_EX's window of 999 and floor of 600. -/
theorem witness_branches :
    (withPs ⟨0, true, 0, .ready⟩).ps.ovf = true ∧ cfgEx.pollDur + cfgEx.margin = 999 ∧
    599 < cfgEx.minIdle ∧ cfgEx.minIdle ≤ 600 ∧ 600 ≤ 999 ∧ 999 < 1000 ∧ 1000 - 999 < cfgEx.minIdle ∧
    1598 - 999 < cfgEx.minIdle ∧ cfgEx.minIdle ≤ 1599 - 999 := by decide

/-- TicksKeepTheMeasuredSamples: UT idle, and in UT_DECODE with the gate closed. -/
theorem witness_ticks_pass :
    State.reset.cfg.valid = true ∧ State.reset.ut.phase = .idle ∧
    (let s := { decoding samplesF false with sl := (serving .shift 7 100 false true).sl }
     s.cfg.valid = true ∧ s.ut.phase = .decode ∧ s.sl.phase ≠ .idle) := by decide

/-- ThresholdConvergesAtAConstantInterval: an interval at the bound of each clause. -/
theorem witness_intervals :
    (let s := withPs ⟨1599, false, 300, .ready⟩
     let u := withPs ⟨1599, false, 600, .ready⟩
     s.ps.elapsed = 1599 ∧ s.ps.ovf = false ∧ u.cfg = s.cfg ∧ u.ps.elapsed = 1599 ∧ u.ps.ovf = false ∧
     u.ps.threshold = (hostPolled s).ps.threshold ∧ s.cfg.minIdle ≤ 1599 ∧ s.cfg.pollDur + s.cfg.margin < 1599 ∧
     s.cfg.minIdle ≤ 1599 - s.cfg.pollDur - s.cfg.margin) ∧
    (let s := withPs ⟨599, false, 300, .ready⟩
     s.ps.elapsed = 599 ∧ s.ps.ovf = false ∧ s.ps.threshold = (hostPolled s).ps.threshold ∧
     599 < s.cfg.minIdle) := by decide

/-- A run of one TICK. -/
theorem leads_tick {s : State} (h : s.cfg.valid = true) : Leads [.tick] s ((tick s).withMoves []) :=
  leads_cons h (congrArg Host.Outcome.next (tick_withMoves [] s)) (leads_nil _)

/-- AtMostOneGrantPerCycle: a grant, and a run of a READY scheduler in which no HOSTPOLLED is raised. -/
theorem witness_grant :
    answers (exec .maypoll (withPs ⟨300, false, 300, .waiting⟩)) .ok 1 (fun _ => true) = true ∧
    portReady (withPs ⟨300, false, 300, .waiting⟩) = true ∧
    ∃ t, (withPs ⟨300, false, 300, .ready⟩).cfg.valid = true ∧ Move.reset ∉ [Move.tick] ∧
      Leads [.tick] (withPs ⟨300, false, 300, .ready⟩) t ∧
      t.hist.hostPolls = (withPs ⟨300, false, 300, .ready⟩).hist.hostPolls ∧
      (withPs ⟨300, false, 300, .ready⟩).ps.mode = .ready ∧ portReady t = true :=
  ⟨by decide, by decide, _, by decide, by decide, leads_tick (by decide), by decide, by decide, by decide⟩

/-- OnlyASuccessfulPollWritesLastBuilt: a step that writes lastBuilt, and one that writes lastSent. -/
theorem witness_writes :
    goes (step (decoding samplesF false)) (fun t => t.rs.lastBuilt != (decoding samplesF false).rs.lastBuilt) = true ∧
    goes (step { offered [0x1100#16] with rs := ⟨reportF, zeroReport, true⟩ }) (fun t => t.rs.lastSent != zeroReport) =
      true := by decide +kernel

/-- ChangeDetectionLaws, its first clause: BUILD and then, after a TICK, CHANGED with FIRST = 0. -/
theorem witness_build_changed :
    let s := withRs ⟨reportF, zeroReport, false⟩
    ∃ t u : State, s.cfg.valid = true ∧ portReady s = true ∧ exec .build s = .next t ∧ Leads [.tick] t u ∧
      Move.reset ∉ [Move.tick] ∧
      (∀ (n : Nat) (w : State), Leads ([Move.tick].take n) t w → w.rs.lastBuilt = t.rs.lastBuilt) ∧
      portReady u = true ∧ u.rs.first = false := by
  refine ⟨_, _, by decide, by decide, rfl, leads_tick (by decide), by decide, ?_, by decide, by decide⟩
  intro n w h
  cases n with
  | zero => cases h; rfl
  | succ n =>
    rw [List.take_of_length_le (by simp)] at h
    obtain ⟨v, hv, hw⟩ := (leads_cons_iff (by decide)).1 h
    cases hv
    cases hw
    rfl

/-- ChangeDetectionLaws, its second clause. -/
theorem witness_unchanged :
    portReady (withRs ⟨reportF, reportF, false⟩) = true ∧
    answers (exec .changed (withRs ⟨reportF, reportF, false⟩)) .ok 0 (fun _ => true) = true := by decide

/-- ChangeDetectionLaws, its last clause. -/
theorem witness_first_stays :
    goes (step (withRs ⟨reportF, zeroReport, false⟩)) (fun _ => true) = true ∧
    (withRs ⟨reportF, zeroReport, false⟩).env.moves.head? ≠ some .reset ∧
    (withRs ⟨reportF, zeroReport, false⟩).rs.first = false := by decide

/-- LatchRiseStartsATransaction, LatchRiseWaitsInTheAtomicSection (in both phases), LatchRiseAbortsAndRestarts. -/
theorem witness_latch_rise :
    (loaded.cfg.valid = true ∧ loaded.sl.phase = .idle ∧ loaded.sl.latchLvl = false ∧ loaded.ut.phase ≠ .send ∧
      loaded.ut.phase ≠ .sample) ∧
    ((sending 1 []).sl.latchLvl = false ∧ (sending 1 []).ut.phase = .send) ∧
    ((sampling [] true 0).sl.latchLvl = false ∧ (sampling [] true 0).ut.phase = .sample) ∧
    (let s := serving .shift 0 1 false true
     s.cfg.valid = true ∧ s.sl.phase = .shift ∧ s.sl.latchLvl = false ∧ s.ut.phase ≠ .send ∧
     s.ut.phase ≠ .sample) := by decide

/-- LatchFallBeginsTheShift: in SL_WAIT_LATCH_FALL and outside it. -/
theorem witness_latch_fall :
    (serving .waitLatchFall 7 100 true true).cfg.valid = true ∧
    (serving .waitLatchFall 7 100 true true).sl.latchLvl = true ∧
    (serving .waitLatchFall 7 100 true true).sl.phase = .waitLatchFall ∧
    (serving .idle 7 0 true true).sl.latchLvl = true ∧ (serving .idle 7 0 true true).sl.phase ≠ .waitLatchFall := by
  decide

/-- PendingLatchIsServedFirst. -/
theorem witness_pending :
    let s := { decoding [] true with sl := { State.reset.sl with lpend := true } }
    s.cfg.valid = true ∧ s.sl.lpend = true ∧ s.sl.phase = .idle ∧ s.ut.phase ≠ .send ∧ s.ut.phase ≠ .sample := by
  decide

/-- ClockFallShiftsOrCompletes: the first position, the last but one, and the last. -/
theorem witness_clock_fall :
    (let s := serving .shift 7 100 false true
     s.cfg.valid = true ∧ s.sl.phase = .shift ∧ s.sl.clkLvl = true ∧ s.sl.pos.val = 6 + 1) ∧
    (serving .shift 1 100 false true).sl.pos.val = 0 + 1 ∧ (serving .shift 0 100 false true).sl.pos.val = 0 := by
  decide

/-- IgnoredEdgesChangeOnlyTheLevel: SL idle, and waiting for the latch to fall. -/
theorem witness_ignored :
    State.reset.sl.phase ≠ .shift ∧ (serving .waitLatchFall 7 100 true true).sl.phase ≠ .shift ∧
    (serving .waitLatchFall 7 100 true true).cfg.valid = true := by decide

/-- EveryTickCountsElapsed, WatchdogEndsAStalledTransaction: each clause. -/
theorem witness_watchdog :
    State.reset.cfg.valid = true ∧ State.reset.sl.phase = .idle ∧
    ((serving .shift 0 2 false true).sl.phase ≠ .idle ∧ 1 < (serving .shift 0 2 false true).sl.wdt) ∧
    ((serving .waitLatchFall 7 1 true true).sl.phase ≠ .idle ∧ (serving .waitLatchFall 7 1 true true).sl.wdt = 1) ∧
    ({ cfgEx with recordOnAbort := true }).valid = true := by decide

theorem witness_inv_loaded : Inv loaded := by
  refine ⟨by decide, ⟨rfl, rfl⟩, ⟨by decide, by decide⟩, ⟨by decide, by decide, by decide, by decide, by decide⟩,
    fun h => ?_, fun h => ?_, ⟨by decide, by decide, by decide, by decide, by decide, by decide⟩,
    ⟨by decide, by decide, by decide⟩, by decide, fun r h => ?_⟩
  all_goals cases h

/-- TransactionServesTheByteMsbFirst: with no pulse, seven and eight, at the most ticks CFG_EX allows. -/
theorem witness_frame_law (n : Nat) (h : n ∈ [0, 7, 8]) :
    Inv loaded ∧ loaded.sl.phase = .idle ∧ loaded.ut.phase ≠ .send ∧ loaded.ut.phase ≠ .sample ∧
    loaded.sl.latchLvl = false ∧ loaded.sl.clkLvl = true ∧ 99 < loaded.cfg.wdtTicks ∧
    (∀ p ∈ List.replicate n ((50, 49) : Nat × Nat), p.1 + p.2 < loaded.cfg.wdtTicks) ∧
    (List.replicate n ((50, 49) : Nat × Nat)).length ≤ 8 := by
  refine ⟨witness_inv_loaded, by decide, by decide, by decide, by decide, by decide, by decide, ?_, ?_⟩
  · intro p hp
    rw [(List.mem_replicate.1 hp).2]
    decide
  · revert h; revert n; simp

/-- A run of TICKs alone, whatever the state. -/
theorem leads_ticks (n : Nat) : ∀ s : State, s.cfg.valid = true → ∃ t, Leads (List.replicate n .tick) s t := by
  induction n with
  | zero => exact fun s _ => ⟨_, leads_nil s⟩
  | succ n ih =>
    intro s hv
    obtain ⟨t, ht⟩ := ih (tick s) (by simpa using hv)
    exact ⟨t, leads_cons hv (congrArg Host.Outcome.next (tick_withMoves _ s)) ht⟩

/-- TransactionEndsWithinNineWatchdogs: 900 TICKs under CFG_EX. -/
theorem witness_bounded :
    ∃ t, Inv (serving .shift 0 1 false true) ∧ (serving .shift 0 1 false true).sl.phase ≠ .idle ∧
      Leads (List.replicate 900 .tick) (serving .shift 0 1 false true) t ∧
      (∀ (n : Nat) (u : State), Leads ((List.replicate 900 Move.tick).take n) (serving .shift 0 1 false true) u →
        (List.replicate 900 Move.tick)[n]? = some (.latch true) → u.sl.latchLvl = true) ∧
      9 * (serving .shift 0 1 false true).cfg.wdtTicks ≤ (List.replicate 900 Move.tick).count .tick := by
  obtain ⟨t, ht⟩ := leads_ticks 900 (serving .shift 0 1 false true) (by decide)
  refine ⟨t, witness_inv_serving, by decide, ht, ?_, ?_⟩
  · intro n u _ hn
    have := List.eq_of_mem_replicate (List.mem_of_getElem? hn)
    cases this
  · rw [List.count_replicate_self]
    decide

/-- ShiftedByteIsTakenWholeAtStart: a step that writes sh, and one that writes shift_byte. -/
theorem witness_shifted :
    goes (step (loaded.withMoves [.latch true])) (fun t => t.sl.sh != loaded.sl.sh) = true ∧
    goes (step (State.reset.withFetchWord 16 0x30B4)) (fun t => t.sl.shiftByte != State.reset.sl.shiftByte) = true ∧
    (loaded.withMoves [.latch true]).env.moves.head? ≠ some .reset := by decide

/-- HandlerAndMainLoopAreSeparate. -/
theorem witness_separate :
    (loaded.withMoves [.latch true]).env.moves.head? = some (.latch true) ∧
    (∃ t, step (loaded.withMoves [.latch true]) = .next t) ∧ ∃ t, exec .init State.reset = .next t :=
  ⟨by decide, ⟨_, rfl⟩, ⟨_, rfl⟩⟩

/-- AtomicSectionMasksTheHandler: a latch edge in UT_SEND and a clock edge in UT_SAMPLE. -/
theorem witness_masked :
    (∃ t, step ((sending 1 []).withMoves [.latch true]) = .next t) ∧ (sending 1 []).ut.phase = .send ∧
    (sending 1 []).sl.phase = .idle ∧ (∃ t, step ((sampling [] true 0).withMoves [.clk false]) = .next t) ∧
    (sampling [] true 0).ut.phase = .sample ∧
    ((sending 1 []).withMoves [.latch true]).env.moves.head? ≠ some .reset :=
  ⟨⟨_, rfl⟩, by decide, by decide, ⟨_, rfl⟩, by decide, by decide⟩

/-- ResetSetsEveryRegister: a machine with a command in progress and words that wait. -/
theorem witness_reset_in_progress :
    let s := { sending 2 [] with env := { Env.quiet with cmds := [0x3100#16] } }
    s.cfg.valid = true ∧ s.port.cmdPending ≠ none := by decide

/-- InvariantHoldsAfterReset, EveryStepKeepsTheInvariant. -/
theorem witness_step_from_invariant : cfgEx.valid = true ∧ Inv loaded ∧ ∃ t, step loaded = .next t :=
  ⟨by decide, witness_inv_loaded, ⟨_, rfl⟩⟩

end Sys2Proof.Tests
end

section
/-! PROOFS. Runs of TICKs alone, and what TICKs leave (10_state R41, 40_transceiver R113 and R117, 20_memory R62). -/

namespace Sys2Proof.Machine

/-- In UT_IDLE and UT_DECODE a TICK leaves all of UT. -/
theorem tick_ut_outside {s : State} (h : s.ut.phase = .idle ∨ s.ut.phase = .decode) : (tick s).ut = s.ut := by
  rw [tick_ut, utTick_outside h]

/-- A run of `n` TICKs is the TICK function iterated `n` times. -/
theorem leads_replicate_tick (n : Nat) {s : State} (hv : s.cfg.valid = true) :
    Leads (List.replicate n .tick) s ((tick^[n] s).withMoves []) := by
  induction n generalizing s with
  | zero => exact leads_nil s
  | succ n ih =>
    have rest : Leads (List.replicate n .tick) (tick s) ((tick^[n] (tick s)).withMoves []) := ih (by simpa using hv)
    exact leads_cons hv (congrArg Host.Outcome.next (tick_withMoves _ s)) rest

/-- What every TICK leaves, any number of TICKs leave. -/
theorem iterate_tick_keeps {α : Type} {f : State → α} (h : ∀ s, f (tick s) = f s) (n : Nat) (s : State) :
    f (tick^[n] s) = f s := by
  have semiconj : Function.Semiconj f tick id := h
  simpa using semiconj.iterate_right n s

@[simp] theorem iterate_tick_rs (n : Nat) (s : State) : (tick^[n] s).rs = s.rs := iterate_tick_keeps tick_rs n s
@[simp] theorem iterate_tick_port (n : Nat) (s : State) : (tick^[n] s).port = s.port := iterate_tick_keeps tick_port n s
@[simp] theorem iterate_tick_env (n : Nat) (s : State) : (tick^[n] s).env = s.env := iterate_tick_keeps tick_env n s

/-- From UT_IDLE or UT_DECODE any number of TICKs leave all of UT, since each one leaves the phase. -/
theorem iterate_tick_ut_outside (n : Nat) {s : State} (h : s.ut.phase = .idle ∨ s.ut.phase = .decode) :
    (tick^[n] s).ut = s.ut := by
  induction n generalizing s with
  | zero => rfl
  | succ n ih =>
    have first : (tick s).ut = s.ut := tick_ut_outside h
    calc (tick^[n] (tick s)).ut = (tick s).ut := ih (by rwa [first])
      _ = s.ut := first

/-- Settles O54: one TICK by the frame of each unit's part, a run of TICKs by the iterated TICK. -/
theorem ticksKeepTheMeasuredSamples : Obligations.TicksKeepTheMeasuredSamples := by
  refine ⟨fun s hv => does_tick hv fun later => ?_, fun n s hv h => ?_⟩
  · exact ⟨tick_ut_outside, tick_cfg s, tick_rs s, tick_port s, by simp [State.withMoves]⟩
  · exact ⟨_, leads_replicate_tick n hv, iterate_tick_ut_outside n h, iterate_tick_rs n s, iterate_tick_port n s,
      by simp [State.withMoves]⟩

end Sys2Proof.Machine
end

section
/-! PROOFS. One step as one move, and what commands, the block's step and the gate allow (00_scope R11, 20_memory R62 and
R68, 30_encoding R98). -/

namespace Sys2Proof.Machine

/-- A step performs a move on the state without it: the block's where the schedule is empty, and else the next one. -/
theorem step_performs {s t : State} (h : step s = .next t) :
    ∃ m, (s.env.moves = [] ∧ m = .block ∨ s.env.moves.head? = some m) ∧
      perform m (s.withMoves s.env.moves.tail) = .next t := by
  obtain ⟨-, ⟨hm, hb⟩ | ⟨m, rest, hm, hp⟩⟩ := step_cases h
  · have same : s.withMoves s.env.moves.tail = s := by rw [hm, List.tail_nil, ← hm]; rfl
    exact ⟨.block, .inl ⟨hm, rfl⟩, by rwa [same]⟩
  · exact ⟨m, .inr (by rw [hm]; rfl), by rwa [hm]⟩

/-- A step that is no RESET performs a move that is no RESET. -/
theorem step_performs_no_reset {s t : State} (h : step s = .next t) (hr : s.env.moves.head? ≠ some .reset) :
    ∃ m, m ≠ .reset ∧ (m = .block → s.env.moves = [] ∨ s.env.moves.head? = some .block) ∧
      perform m (s.withMoves s.env.moves.tail) = .next t := by
  obtain ⟨m, ⟨hm, rfl⟩ | hm, hp⟩ := step_performs h
  · exact ⟨.block, by decide, fun _ => .inl hm, hp⟩
  · refine ⟨m, ?_, ?_, hp⟩
    · rintro rfl
      exact hr hm
    · rintro rfl
      exact .inr hm

@[simp] theorem utDecode_sl (s : State) : (utDecode s).sl = s.sl := by
  obtain ⟨-, -, -, sl, -⟩ := answerTransaction_frame s.ut.op (decodeVerdict s) s
  exact sl
@[simp] theorem utDecode_env (s : State) : (utDecode s).env = s.env := by
  obtain ⟨-, -, -, -, env, -⟩ := answerTransaction_frame s.ut.op (decodeVerdict s) s
  exact env

/-- On a port that is not ready, the block serves the latch, decodes, or does nothing. -/
theorem blockStep_not_ready_cases {s t : State} (hr : portReady s = false) (h : blockStep s = .next t) :
    (serviceEnabled s = true ∧ t = startTransaction s) ∨ (decodeEnabled s = true ∧ t = utDecode s) ∨ t = s := by
  obtain ⟨hs, e⟩ | ⟨-, hd, e⟩ | ⟨-, -, -, e⟩ | ⟨_, _, _, ready, -⟩ | ⟨_, _, _, ready, -⟩ := blockStep_cases h
  · exact .inl ⟨hs, e⟩
  · exact .inr (.inl ⟨hd, e⟩)
  · exact .inr (.inr e)
  all_goals exact absurd ready (by simp [hr])

/-- Where nothing the block could do is enabled, its step changes nothing. -/
theorem blockStep_waits {s : State} (hr : portReady s = false) (hs : serviceEnabled s = false)
    (hd : decodeEnabled s = false) : blockStep s = .next s := by
  obtain ⟨t, ht⟩ := blockStep_next s
  obtain ⟨hs', -⟩ | ⟨hd', -⟩ | rfl := blockStep_not_ready_cases hr ht
  · simp [hs] at hs'
  · simp [hd] at hd'
  · exact ht

theorem gateOpen_eq_false_iff (s : State) : gateOpen s = false ↔ s.sl.phase ≠ .idle ∨ s.sl.lpend = true := by
  cases hl : s.sl.lpend <;> simp [gateOpen, hl]

/-- A closed gate keeps the port from being ready. -/
theorem portReady_of_gate_closed {s : State} (h : gateOpen s = false) : portReady s = false := by simp [portReady, h]

/-- A closed gate holds back the decode step. -/
theorem decodeEnabled_of_gate_closed {s : State} (h : gateOpen s = false) : decodeEnabled s = false := by
  simp [decodeEnabled, h]

/-- On a port that is not ready, the block's step keeps every waiting word. -/
theorem blockStep_not_ready_cmds {s t : State} (hr : portReady s = false) (h : blockStep s = .next t) :
    t.env.cmds = s.env.cmds := by
  obtain ⟨-, rfl⟩ | ⟨-, rfl⟩ | rfl := blockStep_not_ready_cases hr h <;> simp

/-- While the gate is closed the block's step is the service of the latch, or nothing. -/
theorem blockStep_gate_closed_cases {s t : State} (hg : gateOpen s = false) (h : blockStep s = .next t) :
    t = startTransaction s ∨ t = s := by
  obtain ⟨-, e⟩ | ⟨hd, -⟩ | e := blockStep_not_ready_cases (portReady_of_gate_closed hg) h
  · exact .inl e
  · simp [decodeEnabled_of_gate_closed hg] at hd
  · exact .inr e

/-- Settles O7: a port that is not ready leaves the block the latch and the decode step, and a closed gate only the latch. -/
theorem commandsAndDecodeWaitAtTheGate : Obligations.CommandsAndDecodeWaitAtTheGate := by
  refine ⟨fun s hv hr => ⟨fun i => exec_waits i hr, ?_⟩, fun s hv hc => ?_, fun s w hv => does_command hv fun _ => rfl⟩
  · obtain ⟨t, ht⟩ := blockStep_next s
    have words : t.env.cmds = s.env.cmds := blockStep_not_ready_cmds hr ht
    refine does_block hv ht fun later => ⟨words, fun hs hd => ?_⟩
    have same : t = s := Host.Outcome.next.inj (ht.symm.trans (blockStep_waits hr hs hd))
    rw [same]
    rfl
  · have hg : gateOpen s = false := (gateOpen_eq_false_iff s).2 hc
    obtain ⟨t, ht⟩ := blockStep_next s
    refine ⟨portReady_of_gate_closed hg, does_block hv ht fun later => ?_⟩
    obtain rfl | rfl := blockStep_gate_closed_cases hg ht <;> exact ⟨rfl, rfl, rfl, rfl, rfl⟩

/-! ### Side effects of commands -/

/-- A command whose step on the port does no more when done twice is idempotent, on a ready port and on any other. -/
theorem onPort_idempotent {f : State → State} {s t : State} (hf : ∀ s, f (f s) = f s) (h : onPort s f = .next t) :
    onPort t f = .next t := by
  cases hr : portReady s with
  | true =>
    obtain rfl : f s = t := Host.Outcome.next.inj ((onPort_ready f hr).symm.trans h)
    simp [onPort, hf]
  | false =>
    obtain rfl : s = t := Host.Outcome.next.inj ((onPort_waits f hr).symm.trans h)
    exact h

/-- A command that only answers leaves all but the port. -/
theorem onPort_respond_frame {data : State → Nat} {s t : State}
    (h : (onPort s fun s => respond .ok (data s) s) = .next t) : t = { s with port := t.port } := by
  cases hr : portReady s with
  | true =>
    rw [onPort_ready _ hr] at h
    cases h
    rfl
  | false =>
    rw [onPort_waits _ hr] at h
    cases h
    rfl

/-- Each of the seven reads answers a value that does not depend on the port, and does nothing else. -/
theorem exec_read {i : Instr}
    (hi : i ∈ [.rdthr, .rdelapsed, .rdsched, .rdbyte, .rdslv] ∨ (∃ k, i = .rdbuilt k ∨ i = .rdsent k)) :
    ∃ data : State → Nat, (∀ s, exec i s = onPort s fun s => respond .ok (data s) s) ∧
      ∀ r d s, data (respond r d s) = data s := by
  simp only [List.mem_cons, List.not_mem_nil, or_false] at hi
  obtain (rfl | rfl | rfl | rfl | rfl) | ⟨k, rfl | rfl⟩ := hi <;> exact ⟨_, fun _ => rfl, fun _ _ _ => rfl⟩

/-- The seven reads change nothing but the response, and are idempotent. -/
theorem exec_read_frame {s t : State} {i : Instr}
    (hi : i ∈ [.rdthr, .rdelapsed, .rdsched, .rdbyte, .rdslv] ∨ (∃ k, i = .rdbuilt k ∨ i = .rdsent k))
    (h : exec i s = .next t) : t = { s with port := t.port } ∧ exec i t = .next t := by
  obtain ⟨data, hx, hd⟩ := exec_read hi
  rw [hx] at h ⊢
  exact ⟨onPort_respond_frame h, onPort_idempotent (fun s => by rw [hd]; rfl) h⟩

/-- INIT, BUILD and SETBYTE write a value that their own write leaves alone. -/
theorem exec_idempotent_write {i : Instr} (hi : i ∈ [.init, .build] ∨ (∃ b, i = .setbyte b)) :
    ∃ f : State → State, (∀ s, exec i s = onPort s f) ∧ ∀ s, f (f s) = f s := by
  simp only [List.mem_cons, List.not_mem_nil, or_false] at hi
  obtain (rfl | rfl) | ⟨b, rfl⟩ := hi <;> exact ⟨_, fun _ => rfl, fun _ => rfl⟩

/-- INIT, BUILD and SETBYTE are idempotent. -/
theorem exec_write_twice {s t : State} {i : Instr} (hi : i ∈ [.init, .build] ∨ (∃ b, i = .setbyte b))
    (h : exec i s = .next t) : exec i t = .next t := by
  obtain ⟨f, hx, hf⟩ := exec_idempotent_write hi
  rw [hx] at h ⊢
  exact onPort_idempotent hf h

/-- The state after RESET with PS waiting and its threshold reached. -/
def pollDue : State := { State.reset with ps := ⟨300, false, 300, .waiting⟩ }

/-- The state after RESET with a report built and not sent. -/
def reportBuilt : State :=
  { State.reset with rs := { State.reset.rs with lastBuilt := #v[1#8, 0#8, 0#8, 0#8, 0#8, 0#8, 0#8, 0#8] } }

/-- UT idle with its driver low, the only line state that INIT changes. No run from RESET meets it (20_memory R75). -/
def lineHeldLow : State := { State.reset with ut := { State.reset.ut with drive := .low } }

/-- CHANGED and MAYPOLL answer 1 and then 0. -/
theorem changed_and_maypoll_not_idempotent : ∀ i ∈ [Instr.changed, Instr.maypoll], ∃ s t u : State,
    portReady s = true ∧ exec i s = .next t ∧ exec i t = .next u ∧ u.port.rsp ≠ t.port.rsp := by
  intro i hi
  simp only [List.mem_cons, List.not_mem_nil, or_false] at hi
  obtain rfl | rfl := hi
  · exact ⟨State.reset, _, _, by decide, rfl, rfl, by decide⟩
  · exact ⟨pollDue, _, _, by decide, rfl, rfl, by decide⟩

/-- Each command with a side effect changes more than the port in some state. -/
theorem side_effect_occurs : ∀ i ∈ [Instr.init, .poll, .probe, .changed, .build, .maypoll, .setbyte 0#8],
    ∃ s t : State, portReady s = true ∧ exec i s = .next t ∧ t ≠ { s with port := t.port } := by
  intro i hi
  simp only [List.mem_cons, List.not_mem_nil, or_false] at hi
  obtain rfl | rfl | rfl | rfl | rfl | rfl | rfl := hi
  · exact ⟨lineHeldLow, _, by decide, rfl, by decide⟩
  · exact ⟨State.reset, _, by decide, rfl, by decide⟩
  · exact ⟨State.reset, _, by decide, rfl, by decide⟩
  · exact ⟨State.reset, _, by decide, rfl, by decide⟩
  · exact ⟨reportBuilt, _, by decide, rfl, by decide⟩
  · exact ⟨pollDue, _, by decide, rfl, by decide⟩
  · exact ⟨State.reset, _, by decide, rfl, by decide⟩

/-- Settles O20: the reads and the idempotent commands by their step on the port, the others by a state each. -/
theorem commandSideEffects : Obligations.CommandSideEffects :=
  ⟨fun _ _ _ hi h => exec_read_frame hi h, fun _ _ _ hi h => exec_write_twice hi h,
    changed_and_maypoll_not_idempotent, side_effect_occurs⟩

end Sys2Proof.Machine
end

section
/-! PROOFS. What a step can do to the byte being shifted and to the shift byte, and the mask of the atomic section
(20_memory R63, R67 and R76, 60_exceptions R215). -/

namespace Sys2Proof.Machine

/-! ### The shifted byte and the shift byte -/

@[simp] theorem slTick_sh (s : State) : (slTick s).sl.sh = s.sl.sh := by
  rcases slTick_cases s with ⟨h, -⟩ | ⟨h, -⟩ | ⟨h, -⟩ | ⟨h, -⟩ <;> simp [h]
@[simp] theorem slTick_shiftByte (s : State) : (slTick s).sl.shiftByte = s.sl.shiftByte := by
  rcases slTick_cases s with ⟨h, -⟩ | ⟨h, -⟩ | ⟨h, -⟩ | ⟨h, -⟩ <;> simp [h]
@[simp] theorem tick_sh (s : State) : (tick s).sl.sh = s.sl.sh := by simp [tick]
@[simp] theorem tick_shiftByte (s : State) : (tick s).sl.shiftByte = s.sl.shiftByte := by simp [tick]

@[simp] theorem clkIn_sh (v : Bool) (s : State) : (clkIn v s).sl.sh = s.sl.sh := by
  rcases clkIn_cases v s with ⟨h, -⟩ | ⟨h, -⟩ | ⟨h, -⟩ <;> simp [h]
@[simp] theorem clkIn_shiftByte (v : Bool) (s : State) : (clkIn v s).sl.shiftByte = s.sl.shiftByte := by
  rcases clkIn_cases v s with ⟨h, -⟩ | ⟨h, -⟩ | ⟨h, -⟩ <;> simp [h]

/-- From `s` to `t` a START takes the shift byte whole, and its most significant bit goes on the line (log 6). -/
def TakesShiftByte (s t : State) : Prop :=
  t.sl.sh = s.sl.shiftByte ∧ t.sl.pos = 7 ∧ t.sl.phase ≠ .idle ∧ t.sl.dataOut = s.sl.shiftByte.getLsbD 7

theorem startTransaction_active (s : State) : (startTransaction s).sl.phase ≠ .idle := by
  rw [startTransaction_phase]
  split <;> decide

/-- START takes the shift byte, whatever the handler did before, as long as it left the shift byte alone. -/
theorem startTransaction_takes {s u : State} (h : u.sl.shiftByte = s.sl.shiftByte) :
    TakesShiftByte s (startTransaction u) :=
  ⟨h, rfl, startTransaction_active u, by rw [startTransaction_dataOut, h]⟩

/-- A move of latch_in starts a transaction, or leaves the byte being shifted alone. -/
theorem latchIn_sh_cases (v : Bool) (s : State) :
    (latchIn v s).sl.sh = s.sl.sh ∨ TakesShiftByte s (latchIn v s) := by
  rcases latchIn_cases v s with ⟨h, -⟩ | ⟨h, -⟩ | ⟨h, -⟩ | ⟨h, -⟩ | ⟨h, -⟩ | ⟨h, -⟩ | ⟨h, -⟩ <;> rw [h]
  case inr.inr.inl => exact .inr (startTransaction_takes rfl)
  case inr.inr.inr.inr.inl => exact .inr (startTransaction_takes (by simp))
  all_goals exact .inl rfl

@[simp] theorem latchIn_shiftByte (v : Bool) (s : State) : (latchIn v s).sl.shiftByte = s.sl.shiftByte := by
  rcases latchIn_cases v s with ⟨h, -⟩ | ⟨h, -⟩ | ⟨h, -⟩ | ⟨h, -⟩ | ⟨h, -⟩ | ⟨h, -⟩ | ⟨h, -⟩ <;> simp [h]

/-- A command whose step on the port keeps SL keeps it where it waits as well. -/
theorem onPort_sl {f : State → State} {s t : State} (hf : (f s).sl = s.sl) (h : onPort s f = .next t) :
    t.sl = s.sl := by
  cases h
  split_ifs
  · exact hf
  · rfl

/-- Every command but SETBYTE is a step on the port that keeps SL (20_memory R67). -/
theorem exec_keeps_sl {i : Instr} (hi : ∀ b, i ≠ .setbyte b) :
    ∃ f : State → State, (∀ s, exec i s = onPort s f) ∧ ∀ s, (f s).sl = s.sl := by
  cases i with
  | setbyte b => exact absurd rfl (hi b)
  | maypoll => exact ⟨_, fun _ => rfl, fun s => by dsimp only; split <;> rfl⟩
  | _ => exact ⟨_, fun _ => rfl, fun _ => rfl⟩

/-- No command writes a register of SL but an accepted SETBYTE, which writes the shift byte (20_memory R67). -/
theorem exec_sl_cases {i : Instr} {s t : State} (h : exec i s = .next t) :
    t.sl = s.sl ∨ ∃ b, i = .setbyte b ∧ t.sl = { s.sl with shiftByte := b } := by
  by_cases hi : ∃ b, i = .setbyte b
  · obtain ⟨b, rfl⟩ := hi
    cases h
    split_ifs
    · exact .inr ⟨b, rfl, rfl⟩
    · exact .inl rfl
  · obtain ⟨f, hx, hf⟩ := exec_keeps_sl (not_exists.1 hi)
    exact .inl (onPort_sl (hf s) ((hx s).symm.trans h))

/-- The first word that waits is SETBYTE `b`, and the port is ready for it. -/
def SetbyteWaits (b : Byte) (s : State) : Prop :=
  portReady s = true ∧ ∃ w rest, s.env.cmds = w :: rest ∧ decode w = .ok (.setbyte b)

/-- All that the block's step can do to SL: nothing, a START, or the acceptance of a SETBYTE. -/
theorem blockStep_sl_cases {s t : State} (h : blockStep s = .next t) :
    t.sl = s.sl ∨ t = startTransaction s ∨
    ∃ b, SetbyteWaits b s ∧ t.sl = { s.sl with shiftByte := b } := by
  obtain ⟨-, rfl⟩ | ⟨-, -, rfl⟩ | ⟨-, -, -, rfl⟩ | ⟨w, rest, i, hr, hc, hd, hx⟩ | ⟨_, _, _, -, -, -, rfl⟩ :=
    blockStep_cases h
  · exact .inr (.inl rfl)
  · exact .inl (utDecode_sl s)
  · exact .inl rfl
  · obtain hs | ⟨b, rfl, hs⟩ := exec_sl_cases hx
    · exact .inl hs
    · exact .inr (.inr ⟨b, ⟨hr, w, rest, hc, hd⟩, hs⟩)
  · exact .inl rfl

/-- RESET apart, a move keeps the byte being shifted, or is a START. -/
theorem perform_sh_cases {m : Move} {s t : State} (hm : m ≠ .reset) (h : perform m s = .next t) :
    t.sl.sh = s.sl.sh ∨ TakesShiftByte s t := by
  cases m with
  | reset => exact absurd rfl hm
  | tick => cases h; exact .inl (tick_sh s)
  | peri v => cases h; exact .inl rfl
  | latch v => cases h; exact latchIn_sh_cases v s
  | clk v => cases h; exact .inl (clkIn_sh v s)
  | command w => cases h; exact .inl rfl
  | block =>
    obtain hs | rfl | ⟨b, -, hs⟩ := blockStep_sl_cases h
    · exact .inl (by rw [hs])
    · exact .inr (startTransaction_takes rfl)
    · exact .inl (by rw [hs])

/-- RESET apart, a move keeps the shift byte, or is the block's acceptance of a SETBYTE. -/
theorem perform_shiftByte_cases {m : Move} {s t : State} (hm : m ≠ .reset) (h : perform m s = .next t) :
    t.sl.shiftByte = s.sl.shiftByte ∨ m = .block ∧ SetbyteWaits t.sl.shiftByte s := by
  cases m with
  | reset => exact absurd rfl hm
  | tick => cases h; exact .inl (tick_shiftByte s)
  | peri v => cases h; exact .inl rfl
  | latch v => cases h; exact .inl (latchIn_shiftByte v s)
  | clk v => cases h; exact .inl (clkIn_shiftByte v s)
  | command w => cases h; exact .inl rfl
  | block =>
    obtain hs | rfl | ⟨b, hw, hs⟩ := blockStep_sl_cases h
    · exact .inl (by rw [hs])
    · exact .inl rfl
    · exact .inr ⟨rfl, by rwa [hs]⟩

/-- Settles O46: a step performs one move, and of the moves START alone writes sh and SETBYTE alone the shift byte. -/
theorem shiftedByteIsTakenWholeAtStart : Obligations.ShiftedByteIsTakenWholeAtStart := by
  intro s t h hr
  obtain ⟨m, hm, hblock, hp⟩ := step_performs_no_reset h hr
  constructor
  · exact fun changed => (perform_sh_cases hm hp).resolve_left changed
  · intro changed
    obtain ⟨rfl, ready, word⟩ := (perform_shiftByte_cases hm hp).resolve_left changed
    exact ⟨hblock rfl, ready, word⟩

/-! ### The atomic section -/

theorem psTick_threshold (s : State) : (psTick s).ps.threshold = s.ps.threshold := by
  simp only [psTick]; split <;> rfl
theorem psTick_mode (s : State) : (psTick s).ps.mode = s.ps.mode := by
  simp only [psTick]; split <;> rfl

/-- From `s` to `t` the handler is masked: SL at most records a latch edge and the levels it has seen, and the
threshold, ps_state, RS and the port stay. -/
def HandlerMasked (s t : State) : Prop :=
  t.sl = { s.sl with lpend := t.sl.lpend, latchLvl := t.sl.latchLvl, clkLvl := t.sl.clkLvl } ∧
  (s.sl.lpend = true → t.sl.lpend = true) ∧ t.ps.threshold = s.ps.threshold ∧ t.ps.mode = s.ps.mode ∧
  t.rs = s.rs ∧ t.port = s.port

theorem atomicSection_iff (s : State) : atomicSection s = true ↔ s.ut.phase = .send ∨ s.ut.phase = .sample := by
  simp [atomicSection]

/-- In the atomic section the block can take no step (20_memory R62, R63). -/
theorem blockStep_atomic {s : State} (ha : atomicSection s = true) : blockStep s = .next s := by
  have hs : serviceEnabled s = false := by simp [serviceEnabled, ha]
  obtain hp | hp := (atomicSection_iff s).1 ha <;>
    exact blockStep_waits (by simp [portReady, hp]) hs (by simp [decodeEnabled, hp])

/-- While SL is idle, a move of clk_in is only seen. -/
theorem clkIn_idle (v : Bool) {s : State} (hi : s.sl.phase = .idle) : clkIn v s = seeClk v s := by
  rcases clkIn_cases v s with ⟨h, -⟩ | ⟨-, -, -, hs, -⟩ | ⟨-, -, -, hs, -⟩
  · exact h
  all_goals exact absurd (hi.symm.trans hs) (by decide)

/-- In the atomic section with SL idle, a move of latch_in is seen, and a rising edge is recorded too. -/
theorem latchIn_atomic_idle (v : Bool) {s : State} (ha : atomicSection s = true) (hi : s.sl.phase = .idle) :
    latchIn v s = seeLatch v s ∨
    latchIn v s = { seeLatch v s with sl := { s.sl with latchLvl := v, lpend := true } } := by
  rcases latchIn_cases v s with ⟨h, -⟩ | ⟨h, -⟩ | ⟨-, -, -, hn, -⟩ | ⟨-, -, -, hn, -⟩ | ⟨-, -, -, hn, -⟩ |
    ⟨-, -, -, hs⟩ | ⟨h, -⟩
  · exact .inl h
  · exact .inr h
  · exact absurd (ha.symm.trans hn) (by decide)
  · exact absurd (ha.symm.trans hn) (by decide)
  · exact absurd (ha.symm.trans hn) (by decide)
  · exact absurd (hi.symm.trans hs) (by decide)
  · exact .inl h

/-- In the atomic section with SL idle, every move but RESET leaves the handler masked. -/
theorem perform_masks_handler {m : Move} {s t : State} (ha : atomicSection s = true) (hi : s.sl.phase = .idle)
    (hm : m ≠ .reset) (h : perform m s = .next t) : HandlerMasked s t := by
  cases m with
  | reset => exact absurd rfl hm
  | tick =>
    cases h
    simp [HandlerMasked, tick_idle hi, psTick_threshold, psTick_mode]
  | peri v => cases h; exact ⟨rfl, id, rfl, rfl, rfl, rfl⟩
  | latch v =>
    cases h
    obtain e | e := latchIn_atomic_idle v ha hi <;> simp [HandlerMasked, e]
  | clk v => cases h; simp [HandlerMasked, clkIn_idle v hi]
  | command w => cases h; exact ⟨rfl, id, rfl, rfl, rfl, rfl⟩
  | block =>
    obtain rfl : s = t := Host.Outcome.next.inj ((blockStep_atomic ha).symm.trans h)
    exact ⟨rfl, id, rfl, rfl, rfl, rfl⟩

/-- Settles O48: a step performs one move, and no move but RESET gets past the mask. -/
theorem atomicSectionMasksTheHandler : Obligations.AtomicSectionMasksTheHandler := by
  intro s t h ha hi hr
  obtain ⟨m, hm, -, hp⟩ := step_performs_no_reset h hr
  exact perform_masks_handler (s := s.withMoves s.env.moves.tail) ((atomicSection_iff s).2 ha) hi hm hp

end Sys2Proof.Machine
end

section
/-! PROOFS. Decoding and encoding undo each other, and which words are legal (30_encoding R80 to R85 and R97). -/

namespace Sys2Proof

/-! ### The fields of a word -/

/-- An argument is its upper five bits and its index. -/
theorem append_idxOf (arg : Byte) : arg.extractLsb' 3 5 ++ idxOf arg = arg := by
  ext n hn
  simp only [idxOf, BitVec.getElem_append, BitVec.getElem_extractLsb']
  split <;> simp_all

theorem idxOf_append (hi : BitVec 5) (k : BitVec 3) : idxOf (hi ++ k) = k := by
  simpa [idxOf] using BitVec.extractLsb'_append_eq_right (a := hi) (b := k)

/-- Words of two bytes are equal byte by byte. -/
theorem append_bytes_inj {hi hi' lo lo' : Byte} (h : hi ++ lo = hi' ++ lo') : hi = hi' ∧ lo = lo' :=
  ⟨by simpa only [opcOf_append] using congrArg opcOf h, by simpa only [argOf_append] using congrArg argOf h⟩

theorem opcOf_toNat (w : Word) : (opcOf w).toNat = w.toNat / 256 := by
  have bound : w.toNat / 256 < 256 := by omega
  simpa [opcOf, Nat.shiftRight_eq_div_pow] using bound

theorem argOf_toNat (w : Word) : (argOf w).toNat = w.toNat % 256 := by simp [argOf]

/-! ### The forms of ARG -/

/-- A none-form command is read exactly where ARG is 0 (30_encoding R81). -/
theorem withoutArg_eq_ok_iff {opc arg : Byte} {i j : Instr} : withoutArg opc arg j = .ok i ↔ arg = 0#8 ∧ j = i := by
  by_cases h : arg = 0#8 <;> simp [withoutArg, h]

/-- An idx-form command is read exactly where ARG is an index under five zeros (30_encoding R81, R85). -/
theorem withIndex_eq_ok_iff {opc arg : Byte} {i : Instr} {f : BitVec 3 → Instr} :
    withIndex opc arg f = .ok i ↔ ∃ k, arg = 0#5 ++ k ∧ f k = i := by
  have fields := append_idxOf arg
  constructor
  · intro h
    by_cases zeros : arg.extractLsb' 3 5 = 0#5
    · rw [zeros] at fields
      simp only [withIndex, zeros, if_true, Except.ok.injEq] at h
      exact ⟨_, fields.symm, h⟩
    · simp [withIndex, zeros] at h
  · rintro ⟨k, rfl, rfl⟩
    have zeros : (0#5 ++ k).extractLsb' 3 5 = 0#5 := BitVec.extractLsb'_append_eq_left
    rw [withIndex, if_pos zeros, idxOf_append]

/-! ### Both directions -/

/-- A command of the idx form is read back from its fields. -/
theorem withIndex_append (opc : Byte) (f : BitVec 3 → Instr) (k : BitVec 3) :
    withIndex opc (0#5 ++ k) f = .ok (f k) := withIndex_eq_ok_iff.2 ⟨k, rfl, rfl⟩

/-- No bit of an encoding is dropped. -/
theorem decode_encode (i : Instr) : decode (encode i) = .ok i := by
  cases i with
  | rdbuilt k => simpa [decode, encode, opcOf_append, argOf_append] using withIndex_append 0x12#8 .rdbuilt k
  | rdsent k => simpa [decode, encode, opcOf_append, argOf_append] using withIndex_append 0x13#8 .rdsent k
  | setbyte b => simp [decode, encode, opcOf_append, argOf_append]
  | _ => rfl

/-- Settles O2: the operand types leave no command ill formed, and the decoder reads each field back. -/
theorem decodeReadsBackEveryEncodedCommand : Obligations.DecodeReadsBackEveryEncodedCommand :=
  fun i => ⟨instr_wellFormed i, decode_encode i⟩

/-- A none-form command that is read has the word of its fields. -/
theorem encode_of_withoutArg {opc arg : Byte} {i j : Instr} (hj : encode j = opc ++ 0#8)
    (h : withoutArg opc arg j = .ok i) : encode i = opc ++ arg := by
  obtain ⟨rfl, rfl⟩ := withoutArg_eq_ok_iff.1 h
  exact hj

/-- An idx-form command that is read has the word of its fields. -/
theorem encode_of_withIndex {opc arg : Byte} {i : Instr} {f : BitVec 3 → Instr}
    (hf : ∀ k, encode (f k) = opc ++ (0#5 ++ k)) (h : withIndex opc arg f = .ok i) : encode i = opc ++ arg := by
  obtain ⟨k, rfl, rfl⟩ := withIndex_eq_ok_iff.1 h
  exact hf k

/-- The command that a word decodes to has that word. -/
theorem encode_of_decode {w : Word} {i : Instr} (h : decode w = .ok i) : encode i = w := by
  have opcode {n : Nat} (hn : (opcOf w).toNat = n) : opcOf w = BitVec.ofNat 8 n := by simp [← hn]
  rw [← append_opcOf_argOf w]
  simp only [decode] at h
  split at h
  -- the opcodes of RDBUILT and RDSENT
  case h_6 | h_7 =>
    next hn => exact encode_of_withIndex (fun k => by rw [opcode hn]; rfl) h
  -- SETBYTE, whose ARG may be any byte
  case h_12 =>
    next hn =>
      cases h
      rw [opcode hn]
      rfl
  -- an opcode of no row
  case h_15 => cases h
  all_goals
    next hn => exact encode_of_withoutArg (by rw [opcode hn]; rfl) h

/-- Settles O3: each branch of the decoder fixes both fields of the word. -/
theorem encodeRestoresEveryDecodedWord : Obligations.EncodeRestoresEveryDecodedWord :=
  fun _ _ => encode_of_decode

theorem decode_eq_ok_iff {w : Word} {i : Instr} : decode w = .ok i ↔ encode i = w :=
  ⟨encode_of_decode, fun h => h ▸ decode_encode i⟩

/-- Settles O1: the words of the opcode map are the words of their commands. -/
theorem opcodeMapWordsDecode : Obligations.OpcodeMapWordsDecode :=
  ⟨decode_encode .init, decode_encode .poll, decode_encode .probe, decode_encode .changed, decode_encode .build,
    decode_encode (.rdbuilt 7#3), decode_encode (.rdsent 6#3), decode_encode .maypoll, decode_encode .rdthr,
    decode_encode .rdelapsed, decode_encode .rdsched, decode_encode (.setbyte 0xB4#8), decode_encode .rdbyte,
    decode_encode .rdslv⟩

end Sys2Proof
end

section
/-! PROOFS. Legality as the opcode table, as the listed groups and as a count, the answer to an illegal word, and the
assembling of command lines (30_encoding R97, R99, 20_memory R62 and R64). -/

namespace Sys2Proof

/-! ### Legality by the rows of the table -/

/-- A legal word is the word of some command. -/
theorem exists_decode_iff {w : Word} : (∃ i, decode w = .ok i) ↔ ∃ i, encode i = w := by
  simp only [decode_eq_ok_iff]

/-- The word of each command matches one row, that of its own mnemonic. -/
theorem rowsOf_encode : ∀ i : Instr, rowsOf (encode i) = [i.mnemonic]
  | .init => Laws.OwnRow.init
  | .poll => Laws.OwnRow.poll
  | .probe => Laws.OwnRow.probe
  | .changed => Laws.OwnRow.changed
  | .build => Laws.OwnRow.build
  | .rdbuilt k => Laws.OwnRow.rdbuilt k
  | .rdsent k => Laws.OwnRow.rdsent k
  | .maypoll => Laws.OwnRow.maypoll
  | .rdthr => Laws.OwnRow.rdthr
  | .rdelapsed => Laws.OwnRow.rdelapsed
  | .rdsched => Laws.OwnRow.rdsched
  | .setbyte b => Laws.OwnRow.setbyte b
  | .rdbyte => Laws.OwnRow.rdbyte
  | .rdslv => Laws.OwnRow.rdslv

theorem encode_matches_row (i : Instr) : ∃ r ∈ opcodeTable, encode i &&& r.mask = r.pattern := by
  have own : i.mnemonic ∈ rowsOf (encode i) := by simp [rowsOf_encode]
  simp only [rowsOf, List.mem_map, List.mem_filter, Row.holds, beq_iff_eq] at own
  obtain ⟨r, ⟨member, holds⟩, -⟩ := own
  exact ⟨r, member, holds⟩

/-- A mask that reads every bit of a word admits one word. -/
theorem encodes_of_full_mask {w : Word} (j : Instr) (h : w &&& 0xFFFF#16 = encode j) : ∃ i, encode i = w :=
  ⟨j, by rw [← h]; exact BitVec.and_allOnes⟩

/-- The masks of the idx and imm8 forms read OPC whole, and a part of ARG. -/
theorem fields_of_mask {w : Word} {opc m : Byte} (h : w &&& (0xFF#8 ++ m) = opc ++ 0#8) :
    opcOf w = opc ∧ argOf w &&& m = 0#8 := by
  rw [← append_opcOf_argOf w, BitVec.and_append] at h
  obtain ⟨hopc, harg⟩ := append_bytes_inj h
  exact ⟨by rw [← hopc]; exact BitVec.and_allOnes.symm, harg⟩

theorem upper_eq_zero_of_mask : ∀ arg : Byte, arg &&& 0xF8#8 = 0#8 → arg.extractLsb' 3 5 = 0#5 := by decide

/-- The mask of the idx form leaves the index free. -/
theorem encodes_of_idx_mask {w : Word} {opc : Byte} (f : BitVec 3 → Instr)
    (hf : ∀ k, encode (f k) = opc ++ (0#5 ++ k)) (h : w &&& (0xFF#8 ++ 0xF8#8) = opc ++ 0#8) :
    ∃ i, encode i = w := by
  obtain ⟨hopc, harg⟩ := fields_of_mask h
  have zeros := upper_eq_zero_of_mask _ harg
  exact ⟨f (idxOf (argOf w)), by rw [hf, ← zeros, append_idxOf, ← hopc, append_opcOf_argOf]⟩

/-- The mask of the imm8 form leaves ARG free. -/
theorem encodes_of_imm8_mask {w : Word} {opc : Byte} (f : Byte → Instr) (hf : ∀ b, encode (f b) = opc ++ b)
    (h : w &&& (0xFF#8 ++ 0#8) = opc ++ 0#8) : ∃ i, encode i = w := by
  obtain ⟨hopc, -⟩ := fields_of_mask h
  exact ⟨f (argOf w), by rw [hf, ← hopc, append_opcOf_argOf]⟩

/-- Whatever row a word matches, it is the word of a command of that row. -/
theorem encodes_of_row (w : Word) : ∀ r ∈ opcodeTable, w &&& r.mask = r.pattern → ∃ i, encode i = w := by
  simp only [opcodeTable, List.forall_mem_cons]
  exact ⟨encodes_of_full_mask .init, encodes_of_full_mask .poll, encodes_of_full_mask .probe,
    encodes_of_full_mask .changed, encodes_of_full_mask .build, encodes_of_idx_mask .rdbuilt fun _ => rfl,
    encodes_of_idx_mask .rdsent fun _ => rfl, encodes_of_full_mask .maypoll, encodes_of_full_mask .rdthr,
    encodes_of_full_mask .rdelapsed, encodes_of_full_mask .rdsched, encodes_of_imm8_mask .setbyte fun _ => rfl,
    encodes_of_full_mask .rdbyte, encodes_of_full_mask .rdslv, List.forall_mem_nil _⟩

/-- A word is legal exactly where it matches a row (30_encoding R97). -/
theorem exists_decode_iff_row (w : Word) :
    (∃ i, decode w = .ok i) ↔ ∃ r ∈ opcodeTable, w &&& r.mask = r.pattern := by
  rw [exists_decode_iff]
  constructor
  · rintro ⟨i, rfl⟩
    exact encode_matches_row i
  · rintro ⟨r, member, holds⟩
    exact encodes_of_row w r member holds

/-! ### Legality by the numbers of the two fields -/

theorem withoutArg_legal_iff (opc arg : Byte) (j : Instr) :
    (∃ i, withoutArg opc arg j = .ok i) ↔ arg.toNat = 0 := by
  simp [withoutArg_eq_ok_iff, BitVec.toNat_eq]

theorem upper_toNat (arg : Byte) : (arg.extractLsb' 3 5).toNat = arg.toNat / 8 := by
  have bound : arg.toNat / 8 < 32 := by omega
  simpa [Nat.shiftRight_eq_div_pow] using bound

theorem withIndex_legal_iff (opc arg : Byte) (f : BitVec 3 → Instr) :
    (∃ i, withIndex opc arg f = .ok i) ↔ arg.toNat / 8 = 0 := by
  have zeros : arg.extractLsb' 3 5 = 0#5 ↔ arg.toNat / 8 = 0 := by
    rw [BitVec.toNat_eq, upper_toNat, BitVec.toNat_zero]
  rw [← zeros]
  by_cases h : arg.extractLsb' 3 5 = 0#5 <;> simp [withIndex, h]

/-- The legal words by OPC and ARG (30_encoding R81, R84). -/
theorem exists_decode_iff_fields (w : Word) :
    (∃ i, decode w = .ok i) ↔
      (w.toNat / 256 ∈ [0x01, 0x02, 0x03, 0x10, 0x11, 0x20, 0x21, 0x22, 0x23, 0x31, 0x32] ∧ w.toNat % 256 = 0) ∨
      (w.toNat / 256 ∈ [0x12, 0x13] ∧ w.toNat % 256 / 8 = 0) ∨ w.toNat / 256 = 0x30 := by
  rw [← opcOf_toNat, ← argOf_toNat]
  simp only [decode]
  split
  -- an opcode of no row
  case h_15 => simp_all
  all_goals
    next hn => simp [hn, withoutArg_legal_iff, withIndex_legal_iff]

/-- The listed groups are what is left over. -/
theorem illegal_groups (w : Word) :
    (¬ ∃ i, decode w = .ok i) ↔
      let opc := w.toNat / 256
      let arg := w.toNat % 256
      opc = 0 ∨ (0x04 ≤ opc ∧ opc ≤ 0x0F) ∨ (0x14 ≤ opc ∧ opc ≤ 0x1F) ∨ (0x24 ≤ opc ∧ opc ≤ 0x2F) ∨ 0x33 ≤ opc ∨
      (opc ∈ [0x01, 0x02, 0x03, 0x10, 0x11, 0x20, 0x21, 0x22, 0x23, 0x31, 0x32] ∧ arg ≠ 0) ∨
      (opc ∈ [0x12, 0x13] ∧ arg / 8 ≠ 0) := by
  rw [exists_decode_iff_fields]
  simp only [List.mem_cons, List.not_mem_nil, or_false]
  generalize w.toNat / 256 = opc
  generalize w.toNat % 256 = arg
  omega

/-! ### The count -/

/-- The commands without an operand. -/
def plainCommands : List Instr :=
  [.init, .poll, .probe, .changed, .build, .maypoll, .rdthr, .rdelapsed, .rdsched, .rdbyte, .rdslv]

/-- Every value of an operand `n` bits wide. -/
def operands (n : Nat) : List (BitVec n) := (List.finRange (2 ^ n)).map .ofFin

theorem mem_operands {n : Nat} (v : BitVec n) : v ∈ operands n :=
  List.mem_map.2 ⟨v.toFin, List.mem_finRange _, rfl⟩

theorem operands_nodup (n : Nat) : (operands n).Nodup :=
  (List.nodup_finRange _).map fun _ _ h => congrArg BitVec.toFin h

theorem operands_length (n : Nat) : (operands n).length = 2 ^ n := by simp [operands]

/-- Every command, with every operand (30_encoding R84, R85). -/
def allCommands : List Instr :=
  plainCommands ++ (operands 3).map Instr.rdbuilt ++ (operands 3).map Instr.rdsent ++ (operands 8).map Instr.setbyte

theorem mem_allCommands (i : Instr) : i ∈ allCommands := by
  cases i <;> simp [allCommands, plainCommands, mem_operands]

theorem allCommands_length : allCommands.length = 283 := by
  simp [allCommands, plainCommands, operands_length]

theorem allCommands_nodup : allCommands.Nodup := by
  have plain : plainCommands.Nodup := by decide
  have rdbuilt := (operands_nodup 3).map fun _ _ h => Instr.rdbuilt.inj h
  have rdsent := (operands_nodup 3).map fun _ _ h => Instr.rdsent.inj h
  have setbyte := (operands_nodup 8).map fun _ _ h => Instr.setbyte.inj h
  refine (((plain.append rdbuilt ?_).append rdsent ?_).append setbyte ?_) <;>
    simp [List.disjoint_left, plainCommands, or_imp, forall_and]

theorem encode_injective : Function.Injective encode := fun i j h => by
  have read : decode (encode i) = .ok j := h ▸ decode_encode j
  exact Except.ok.inj ((decode_encode i).symm.trans read)

/-- There are 283 legal words: the words of all commands. -/
theorem legal_words_count :
    ∃ ws : List Word, ws.Nodup ∧ ws.length = 283 ∧ ∀ w, w ∈ ws ↔ ∃ i, decode w = .ok i := by
  refine ⟨allCommands.map encode, allCommands_nodup.map encode_injective, ?_, fun w => ?_⟩
  · rw [List.length_map, allCommands_length]
  · simp [exists_decode_iff, mem_allCommands]

/-! ### Command lines -/

/-- A command line assembles exactly where its operand fits. -/
theorem assemble_isSome (m : Mnemonic) (o : Option Nat) :
    (assemble (.command m o)).isSome = (ScriptLine.command m o).wellFormed := by
  have fits {n k : Nat} (i : Instr) : (if n < k then some i else none).isSome = decide (n < k) := by
    split <;> simp_all
  cases m
  case rdbuilt | rdsent | setbyte =>
    cases o with
    | none => rfl
    | some n => exact fits _
  all_goals cases o <;> rfl

/-- Every command has a line that assembles to it. -/
theorem assemble_line (i : Instr) : assemble i.line = some i := by
  cases i with
  | rdbuilt k => simp [Instr.line, assemble, k.isLt]
  | rdsent k => simp [Instr.line, assemble, k.isLt]
  | setbyte b => simp [Instr.line, assemble, b.isLt]
  | _ => rfl

/-- Settles O5: by the form of each mnemonic, and by each command's own line. -/
theorem commandLinesAssembleIffOperandFits : Obligations.CommandLinesAssembleIffOperandFits :=
  ⟨assemble_isSome, assemble_line⟩

namespace Machine

/-! ### The acceptance of a word -/

/-- On a ready port the block runs the legal word that waits first. -/
theorem blockStep_legal {s : State} {w : Word} {rest : List Word} {i : Instr} (hr : portReady s = true)
    (hc : s.env.cmds = w :: rest) (hd : decode w = .ok i) :
    blockStep s = exec i { s with env := { s.env with cmds := rest } } := by
  simp [blockStep_ready hr, acceptCommand, hc, hr, hd]

/-- On a ready port the block answers ILLEGAL_COMMAND to an illegal word that waits first. -/
theorem blockStep_illegal {s : State} {w : Word} {rest : List Word} (hr : portReady s = true)
    (hc : s.env.cmds = w :: rest) (hd : ¬ ∃ i, decode w = .ok i) :
    blockStep s = .next (respond .illegalCommand 0 { s with env := { s.env with cmds := rest } }) := by
  cases e : decode w with
  | ok i => exact absurd ⟨i, e⟩ hd
  | error _ => simp [blockStep_ready hr, acceptCommand, hc, hr, e]

/-- Settles O4: the rows, the groups and the count of the decoder, and the block's step on an illegal word. -/
theorem legalWordsAreTheTableRows : Obligations.LegalWordsAreTheTableRows :=
  ⟨exists_decode_iff_row, illegal_groups, legal_words_count,
    fun _ _ _ hv hr hc hd => does_block hv (blockStep_illegal hr hc hd) fun _ => ⟨rfl, rfl⟩⟩

/-- Settles O6: the step performs the block's move, which on a ready port accepts the word that waits first. -/
theorem stepExecutesTheOfferedCommand : Obligations.StepExecutesTheOfferedCommand := by
  intro s w rest later i hv hr hc hd
  rw [step_move hv]
  exact blockStep_legal (s := s.withMoves later) hr hc hd

end Machine
end Sys2Proof
end

section
/-! PROOFS. The transceiver's commands, its part of a TICK, its decode step and the line, one rule at a time
(40_transceiver R110 to R121, 10_state R39). -/

namespace Sys2Proof.Machine

/-! ### The accept steps -/

/-- Settles O9: the step on the port is the written state, and it repeats itself. -/
theorem initReleasesTheLine : Obligations.InitReleasesTheLine := by
  refine ⟨rfl, fun s hr => ?_, fun s busy => exec_waits _ ?_, fun s t h => ?_⟩
  · rw [exec, execInit, onPort_ready _ hr, respond]
  · simp [portReady, busy]
  · exact exec_write_twice (.inl (by simp)) h

/-- The accept step of POLL and PROBE written out: the first segment is on the line, the others wait. -/
theorem acceptTransaction_eq (op : UtOp) (w : Word) (s : State) :
    ∃ g rest, frameSegs s.cfg s.cfg.cmdFrame s.cfg.cmdLen = g :: rest ∧
      acceptTransaction op w s =
        { s with
          ut := { s.ut with
            op := op, drive := g.drive, segLeft := g.ticks, segs := rest, samples := [], cnt := 0,
            timedOut := false, phase := .send }
          port := ⟨some w, none⟩ } := by
  obtain ⟨g, rest, hg⟩ := frameSegs_ne_nil s.cfg s.cfg.cmdFrame s.cfg.cmdLen
  exact ⟨g, rest, hg, by simp [acceptTransaction, beginSend, hg, loadSegment]⟩

/-- The port of a transaction just accepted is not ready. -/
theorem acceptTransaction_not_ready (op : UtOp) (w : Word) (s : State) :
    portReady (acceptTransaction op w s) = false := by
  simp [portReady]

theorem exec_poll_ready {s : State} (hr : portReady s = true) :
    exec .poll s = .next (acceptTransaction .poll 0x0200#16 s) := onPort_ready _ hr

theorem exec_probe_ready {s : State} (hr : portReady s = true) :
    exec .probe s = .next (acceptTransaction .probe 0x0300#16 s) := onPort_ready _ hr

/-- Settles O10: the accept step written out, after which the port is not ready. -/
theorem pollBeginsTheAtomicSection : Obligations.PollBeginsTheAtomicSection := by
  refine ⟨rfl, fun s hr => ?_, fun s t i hr h => ?_⟩
  · obtain ⟨g, rest, hg, e⟩ := acceptTransaction_eq .poll 0x0200#16 s
    exact ⟨g, rest, hg, (exec_poll_ready hr).trans (congrArg _ e)⟩
  · obtain rfl := Host.Outcome.next.inj ((exec_poll_ready hr).symm.trans h)
    exact exec_waits i (acceptTransaction_not_ready _ _ s)

/-- Settles O11: the accept step written out, after which the port is not ready. -/
theorem probeBeginsTheAtomicSection : Obligations.ProbeBeginsTheAtomicSection := by
  refine ⟨rfl, fun s hr => ?_, fun s t i hr h => ?_⟩
  · obtain ⟨g, rest, hg, e⟩ := acceptTransaction_eq .probe 0x0300#16 s
    exact ⟨g, rest, hg, (exec_probe_ready hr).trans (congrArg _ e)⟩
  · obtain rfl := Host.Outcome.next.inj ((exec_probe_ready hr).symm.trans h)
    exact exec_waits i (acceptTransaction_not_ready _ _ s)

/-! ### The send waveform -/

theorem symbolSegs_ticks (c : Params) (b : Bool) :
    ((symbolSegs c b).map (·.ticks)).sum = c.tShort + c.tLong := by
  cases b <;> simp [symbolSegs, Nat.add_comm]

theorem symbolSegs_length (c : Params) (b : Bool) : (symbolSegs c b).length = 2 := by cases b <;> rfl

theorem frameSegs_length (c : Params) (frame n : Nat) : (frameSegs c frame n).length = 2 * n + 1 := by
  induction n with
  | zero => rfl
  | succ n ih => rw [frameSegs, List.length_append, symbolSegs_length, ih]; omega

/-- SEGS lasts one short and one long pulse a bit, and a short one for the stop symbol. -/
theorem frameSegs_duration (c : Params) (frame n : Nat) :
    ((frameSegs c frame n).map (·.ticks)).sum = n * (c.tShort + c.tLong) + c.tShort := by
  induction n with
  | zero => simp [frameSegs]
  | succ n ih => rw [frameSegs, List.map_append, List.sum_append, symbolSegs_ticks, ih]; ring

/-- Settles O21: the recursion of SEGS, and its length and duration by induction on the bits. -/
theorem sendWaveformIsTheFrame : Obligations.SendWaveformIsTheFrame := fun c frame n =>
  ⟨rfl, rfl, frameSegs_length c frame n, frameSegs_duration c frame n⟩

/-! ### A TICK in UT_SEND -/

theorem sendTick_counts {u : Ut} (h : 1 < u.segLeft) : sendTick u = { u with segLeft := u.segLeft - 1 } := by
  simp [sendTick, h]

theorem sendTick_next {u : Ut} {g : Segment} {rest : List Segment} (h : u.segLeft ≤ 1) (hs : u.segs = g :: rest) :
    sendTick u = { u with drive := g.drive, segLeft := g.ticks, segs := rest } := by
  simp [sendTick, hs, Nat.not_lt.2 h]

theorem sendTick_ends {u : Ut} (h : u.segLeft ≤ 1) (hs : u.segs = []) :
    sendTick u = { u with drive := .released, segLeft := 0, phase := .sample, cnt := 0 } := by
  simp [sendTick, hs, Nat.not_lt.2 h]

theorem tick_ut_send {s : State} (h : s.ut.phase = .send) : (tick s).ut = sendTick s.ut := by
  simp [tick_ut, utTick, h]

/-- Settles O22: the three branches of the TICK rule of UT_SEND. -/
theorem sendTickAdvancesTheWaveform : Obligations.SendTickAdvancesTheWaveform := by
  intro s hv hp
  refine ⟨fun h => ?_, fun h g rest hs => ?_, fun h hs => ?_⟩ <;>
    refine does_tick hv fun later => (tick_ut_send hp).trans ?_
  · exact sendTick_counts h
  · exact sendTick_next h hs
  · exact sendTick_ends h hs

/-! ### The line -/

theorem ubus_eq (s : State) : ubus s = !(decide (s.ut.drive = .low ∨ s.env.periDrive = .low)) := by
  cases hu : s.ut.drive <;> cases hp : s.env.periDrive <;> simp [ubus, hu, hp]

/-- Settles O52: the peripheral's move writes its own level alone, and the line is the wired AND. -/
theorem peripheralDrivesTheOpenDrainLine : Obligations.PeripheralDrivesTheOpenDrainLine :=
  ⟨fun _ _ hv => does_peri hv fun _ => rfl, fun s => by
    rw [ubus_eq, Bool.not_eq_false', decide_eq_true_iff]⟩

/-! ### A TICK in UT_SAMPLE -/

theorem sampleTick_begins {c : Params} {line : Bool} {u : Ut} (h : u.cnt = 0) :
    sampleTick c line u = { u with curLevel := line, cnt := 1 } := by
  simp [sampleTick, h]

theorem sampleTick_times_out {c : Params} {u : Ut} (h : u.cnt ≠ 0) (hm : u.cnt = c.smax) :
    sampleTick c u.curLevel u = { u with timedOut := true, phase := .decode } := by
  simp [sampleTick, ← hm, h]

theorem sampleTick_counts {c : Params} {u : Ut} (h : u.cnt ≠ 0) (hm : u.cnt ≠ c.smax) :
    sampleTick c u.curLevel u = { u with cnt := u.cnt + 1 } := by
  simp [sampleTick, h, hm]

theorem sampleTick_completes {c : Params} {line : Bool} {u : Ut} (h : u.cnt ≠ 0) (hl : line ≠ u.curLevel)
    (hn : u.samples.length = 128) :
    sampleTick c line u = { u with samples := u.samples ++ [u.cnt], phase := .decode } := by
  simp [sampleTick, h, hl, hn, nSamples, respBits]

theorem sampleTick_closes {c : Params} {line : Bool} {u : Ut} (h : u.cnt ≠ 0) (hl : line ≠ u.curLevel)
    (hn : u.samples.length ≠ 128) :
    sampleTick c line u = { u with samples := u.samples ++ [u.cnt], curLevel := line, cnt := 1 } := by
  have short : u.samples.length + 1 ≠ nSamples := by simp only [nSamples, respBits]; omega
  simp [sampleTick, h, hl, short]

theorem tick_ut_sample {s : State} (h : s.ut.phase = .sample) :
    (tick s).ut = sampleTick s.cfg (ubus s) s.ut := by
  simp [tick_ut, utTick, h]

/-- Settles O23: the five branches of the TICK rule of UT_SAMPLE. -/
theorem sampleTickMeasuresTheLevel : Obligations.SampleTickMeasuresTheLevel := by
  intro s hv hp line
  have rule : (tick s).ut = sampleTick s.cfg line s.ut := (tick_ut_sample hp).trans (by rw [ubus_eq])
  refine ⟨fun h => ?_, fun h hl hm => ?_, fun h hl hm => ?_, fun h hl hn => ?_, fun h hl hn => ?_⟩ <;>
    refine does_tick hv fun later => rule.trans ?_
  · exact sampleTick_begins h
  · rw [hl]; exact sampleTick_times_out h hm
  · rw [hl]; exact sampleTick_counts h hm
  · exact sampleTick_completes h hl hn
  · exact sampleTick_closes h hl hn

/-! ### The decode step -/

/-- In UT_DECODE with the gate open the block's step is the decode step. -/
theorem blockStep_decodes {s : State} (hp : s.ut.phase = .decode) (hi : s.sl.phase = .idle)
    (hl : s.sl.lpend = false) : blockStep s = .next (utDecode s) := by
  simp [blockStep, serviceEnabled, decodeEnabled, gateOpen, hp, hi, hl]

theorem utDecode_ut (s : State) : (utDecode s).ut = { s.ut with phase := .idle, samples := [], cnt := 0 } := by
  obtain ⟨-, ut, -⟩ := answerTransaction_frame s.ut.op (decodeVerdict s) s
  simp only [utDecode, ut]

theorem utDecode_ps (s : State) : (utDecode s).ps = s.ps := by
  obtain ⟨-, -, ps, -⟩ := answerTransaction_frame s.ut.op (decodeVerdict s) s
  exact ps

/-- What the decode step answers and leaves of RS where it finds a failure. -/
theorem utDecode_of_error {s : State} {e : Status} (h : decodeVerdict s = .error e) :
    (utDecode s).rs = s.rs ∧
    (utDecode s).port = ⟨none, some (if s.ut.op = .poll then ⟨e, 0⟩ else ⟨.ok, 0⟩)⟩ := by
  cases ho : s.ut.op <;> simp [utDecode, h, ho, answerTransaction, respond]

/-- What the decode step answers and stores where it finds a report. -/
theorem utDecode_of_ok {s : State} {r : Report} (h : decodeVerdict s = .ok r) :
    (utDecode s).rs = (if s.ut.op = .poll then { s.rs with lastBuilt := r } else s.rs) ∧
    (utDecode s).port = ⟨none, some (if s.ut.op = .poll then ⟨.ok, 0⟩ else ⟨.ok, 1⟩)⟩ := by
  cases ho : s.ut.op <;> simp [utDecode, h, ho, answerTransaction, respond]

theorem decodeVerdict_timeout {s : State} (h : s.ut.timedOut = true) :
    decodeVerdict s = .error .receiveTimeout := by
  simp [decodeVerdict, h]

theorem decodeVerdict_report {s : State} {r : Report} (h : s.ut.timedOut = false)
    (hd : decodeReport s.cfg s.ut.samples = some r) : decodeVerdict s = .ok r := by
  simp [decodeVerdict, h, hd]

theorem decodeVerdict_mismatch {s : State} (h : s.ut.timedOut = false)
    (hd : decodeReport s.cfg s.ut.samples = none) : decodeVerdict s = .error .frameLengthMismatch := by
  simp [decodeVerdict, h, hd]

/-- DECODE looks at the length alone to decide whether it fails (40_transceiver R122, R125). -/
theorem decodeReport_eq_none_iff (c : Params) (samples : List Nat) :
    decodeReport c samples = none ↔ samples.length ≠ nSamples := by
  simp [decodeReport]

/-- Settles O24: the decode step by its verdict, and R118 by the length of the sample list. -/
theorem decodeStepAnswersTheTransaction : Obligations.DecodeStepAnswersTheTransaction := by
  refine ⟨fun s hv hp hi hl => does_block hv (blockStep_decodes hp hi hl) fun later => ?_, fun s inv hp ht => ?_⟩
  · obtain ⟨-, -, -, -, -, hist, -, -, pending⟩ := answerTransaction_frame s.ut.op (decodeVerdict s) s
    refine ⟨utDecode_ut s, utDecode_ps s, utDecode_sl s, hist, (congrArg Env.cmds (utDecode_env s) :), pending,
      fun ht => ?_, fun ht r hd => ?_, fun ht hd => ?_⟩
    · obtain ⟨rs, port⟩ := utDecode_of_error (decodeVerdict_timeout ht)
      exact ⟨rs, congrArg Port.rsp port⟩
    · obtain ⟨rs, port⟩ := utDecode_of_ok (decodeVerdict_report ht hd)
      exact ⟨rs, congrArg Port.rsp port⟩
    · obtain ⟨rs, port⟩ := utDecode_of_error (decodeVerdict_mismatch ht hd)
      exact ⟨rs, congrArg Port.rsp port⟩
  · obtain ⟨-, -, decoding⟩ := inv
    simpa [decodeReport_eq_none_iff] using (decoding hp).2 ht

end Sys2Proof.Machine
end

section
/-! PROOFS. DECODE, bit by bit (40_transceiver R122 to R125). -/

namespace Sys2Proof.Machine

/-- The number with the binary digits `f 0`, …, `f (n - 1)`, the most significant one first, has these digits. -/
theorem testBit_msbFirst (f : Nat → Bool) {n b : Nat} (hb : b < n) :
    ((List.range n).map fun k => (f k).toNat * 2 ^ (n - 1 - k)).sum.testBit (n - 1 - b) = f b := by
  induction n with
  | zero => omega
  | succ n ih =>
    have shifted : ((List.range (n + 1)).map fun k => (f k).toNat * 2 ^ (n + 1 - 1 - k)).sum =
        Nat.bit (f n) ((List.range n).map fun k => (f k).toNat * 2 ^ (n - 1 - k)).sum := by
      rw [List.range_succ, List.map_append, List.sum_append, Nat.bit_val, ← List.sum_map_mul_left]
      congr 1
      · refine congrArg _ (List.map_congr_left fun k hk => ?_)
        have exponent : n + 1 - 1 - k = n - 1 - k + 1 := by have := List.mem_range.1 hk; omega
        rw [exponent, pow_succ]
        ring
      · simp
    rw [shifted]
    obtain rfl | hlt := (Nat.lt_succ_iff_lt_or_eq.1 hb).symm
    · rw [Nat.add_sub_cancel, Nat.sub_self, Nat.testBit_bit_zero]
    · have exponent : n + 1 - 1 - b = n - 1 - b + 1 := by omega
      rw [exponent, Nat.testBit_bit_succ, ih hlt]

/-- The first wire bit of a byte is its most significant bit. -/
theorem wireByte_getLsbD (samples : List Nat) (base : Nat) {b : Nat} (hb : b < 8) :
    (wireByte samples base).getLsbD (7 - b) = wireBit samples (base + b) := by
  have bound : 7 - b < 8 := by omega
  rw [wireByte, BitVec.getLsbD_ofNat, decide_eq_true bound, Bool.true_and]
  simpa only [Nat.reduceSub] using testBit_msbFirst (fun k => wireBit samples (base + k)) hb

/-- INVERT_MASK complements a channel whole. -/
theorem channelByte_getLsbD (c : Params) (samples : List Nat) (k : Nat) {b : Nat} (hb : b < 8) :
    (channelByte c samples k).getLsbD (7 - b) = (wireBit samples (16 + 8 * k + b) ^^ c.invertMask.getLsbD k) := by
  have bound : 7 - b < 8 := by omega
  rw [channelByte]
  split_ifs with hm
  · rw [BitVec.getLsbD_not, decide_eq_true bound, wireByte_getLsbD samples _ hb, hm, Bool.xor_true, Bool.true_and]
  · rw [wireByte_getLsbD samples _ hb, Bool.eq_false_of_not_eq_true hm, Bool.xor_false]

/-- The bytes of a decoded report: two of switches and six of channels (30_encoding R93). -/
theorem decodeReport_bytes (c : Params) {samples : List Nat} (h : samples.length = nSamples) :
    ∃ r, decodeReport c samples = some r ∧
      ∀ (j : Nat) (hj : j < 8), r[j] = if j < 2 then wireByte samples (8 * j) else channelByte c samples (j - 2) := by
  refine ⟨_, if_pos h, fun j hj => ?_⟩
  interval_cases j <;> rfl

/-- Every bit of a decoded report is a wire bit, complemented in the channels of INVERT_MASK. -/
theorem decodeReport_bits (c : Params) {samples : List Nat} (h : samples.length = nSamples) :
    ∃ r, decodeReport c samples = some r ∧
      ∀ (j b : Nat) (hj : j < 8), b < 8 →
        r[j].getLsbD (7 - b) =
          (wireBit samples (8 * j + b) ^^ (decide (2 ≤ j) && c.invertMask.getLsbD (j - 2))) := by
  obtain ⟨r, hr, bytes⟩ := decodeReport_bytes c h
  refine ⟨r, hr, fun j b hj hb => ?_⟩
  rw [bytes j hj]
  split_ifs with digital
  · simp [wireByte_getLsbD samples _ hb, Nat.not_le.2 digital]
  · have place : 16 + 8 * (j - 2) = 8 * j := by omega
    simp [channelByte_getLsbD c samples _ hb, place, Nat.not_lt.1 digital]

/-- Settles O25: the length alone decides whether DECODE fails, and every bit is placed. -/
theorem decodePlacesEveryWireBit : Obligations.DecodePlacesEveryWireBit := fun c _ =>
  ⟨fun h => if_neg h, decodeReport_bits c⟩

/-- Reports that agree in every bit are equal. -/
theorem report_ext {r q : Report}
    (h : ∀ (j b : Nat) (hj : j < 8), b < 8 → r[j].getLsbD (7 - b) = q[j].getLsbD (7 - b)) : r = q := by
  refine Vector.ext fun j hj => BitVec.eq_of_getLsbD_eq fun k hk => ?_
  have mirrored : 7 - (7 - k) = k := by omega
  simpa only [mirrored] using h j (7 - k) hj (by omega)

/-- DECODE sees its sample list through the length and the wire bits alone. -/
theorem decodeReport_congr (c : Params) {xs ys : List Nat} (hlen : xs.length = ys.length)
    (hbits : ∀ k < 64, wireBit xs k = wireBit ys k) : decodeReport c xs = decodeReport c ys := by
  by_cases h : xs.length = nSamples
  · obtain ⟨r, hr, bits⟩ := decodeReport_bits c h
    obtain ⟨q, hq, bits'⟩ := decodeReport_bits c (hlen.symm.trans h)
    have same : r = q := report_ext fun j b hj hb => by rw [bits j b hj hb, bits' j b hj hb, hbits _ (by omega)]
    rw [hr, hq, same]
  · rw [decodeReport, if_neg h, decodeReport, if_neg (hlen ▸ h)]

/-- Settles O26: a wire bit is the order of its pair, and DECODE sees nothing else. -/
theorem decodingSeesOnlyTheOrderOfAPair : Obligations.DecodingSeesOnlyTheOrderOfAPair :=
  ⟨fun c _ _ hlen order => decodeReport_congr c hlen fun k hk => decide_eq_decide.2 (order k hk),
    fun _ _ equal => decide_eq_false equal.not_lt⟩

end Sys2Proof.Machine
end

section
/-! PROOFS. A transaction from its accept step to its answer: the send, the measuring of held levels, the timeout and the
decode step (40_transceiver R113, R117, R119, R120 and R127, 42_poll_scheduler R160). -/

namespace Sys2Proof.Machine

/-! ### Runs one after another -/

/-- A run that makes a step is a run of a valid machine. -/
theorem valid_of_leads_cons {m : Move} {ms : List Move} {s u : State} (h : Leads (m :: ms) s u) :
    s.cfg.valid = true := by
  by_contra hv
  have refused : Host.Core.step Sys2Proof.core (s.withMoves (m :: ms)) = .refused Refusal.badConfiguration :=
    if_neg hv
  simp only [Leads, List.length_cons, Host.Core.run, refused] at h
  cases h

/-- Runs compose. -/
theorem leads_append {ms ns : List Move} {s t u : State} (h : Leads ms s t) (h' : Leads ns t u) :
    Leads (ms ++ ns) s u := by
  induction ms generalizing s with
  | nil =>
    cases h
    exact h'
  | cons m ms ih =>
    have hv := valid_of_leads_cons h
    obtain ⟨r, hp, hr⟩ := (leads_cons_iff hv).1 h
    exact (leads_cons_iff hv).2 ⟨r, hp, ih hr⟩

/-! ### What TICKs count -/

/-- PS's registers after `n` TICKs with no HOSTPOLLED: elapsed counts modulo its width, and a wrap sets OVF
(42_poll_scheduler R160). -/
def countTicks (c : Params) (n : Nat) (p : Ps) : Ps :=
  { p with
    elapsed := (p.elapsed + n) % 2 ^ c.elapsedW
    ovf := p.ovf || decide (2 ^ c.elapsedW ≤ p.elapsed + n) }

/-- A valid machine with SL idle and elapsed within its width: a TICK raises no HOSTPOLLED. -/
structure Quiet (s : State) : Prop where
  valid : s.cfg.valid = true
  idle : s.sl.phase = .idle
  range : s.ps.elapsed < 2 ^ s.cfg.elapsedW

theorem countTicks_zero {c : Params} {p : Ps} (h : p.elapsed < 2 ^ c.elapsedW) : countTicks c 0 p = p := by
  have fits : ¬ 2 ^ c.elapsedW ≤ p.elapsed := Nat.not_le.2 h
  simp [countTicks, Nat.mod_eq_of_lt h, fits]

theorem countTicks_countTicks (c : Params) (m n : Nat) (p : Ps) :
    countTicks c n (countTicks c m p) = countTicks c (m + n) p := by
  have elapsed : (p.elapsed + m) % 2 ^ c.elapsedW + n ≤ p.elapsed + (m + n) := by
    have := Nat.mod_le (p.elapsed + m) (2 ^ c.elapsedW)
    omega
  by_cases wraps : 2 ^ c.elapsedW ≤ p.elapsed + m
  · have wraps' : 2 ^ c.elapsedW ≤ p.elapsed + (m + n) := by omega
    simp [countTicks, wraps, wraps', Nat.add_assoc]
  · simp [countTicks, wraps, Nat.mod_eq_of_lt (Nat.not_le.1 wraps), Nat.add_assoc]

/-- A TICK counts once: at the counter's last value it wraps. -/
theorem psTick_eq_countTicks {s : State} (h : s.ps.elapsed < 2 ^ s.cfg.elapsedW) :
    (psTick s).ps = countTicks s.cfg 1 s.ps := by
  by_cases last : s.ps.elapsed = 2 ^ s.cfg.elapsedW - 1
  · have wraps : s.ps.elapsed + 1 = 2 ^ s.cfg.elapsedW := by omega
    simp [psTick, elapsedAtMax, countTicks, wraps, ← last]
  · have below : s.ps.elapsed + 1 < 2 ^ s.cfg.elapsedW := by omega
    simp [psTick, elapsedAtMax, last, countTicks, Nat.mod_eq_of_lt below, below]

theorem utTick_op (s : State) : (utTick s).ut.op = s.ut.op := by
  simp only [utTick]
  split
  · simp only [sendTick]
    split_ifs
    · rfl
    · split <;> rfl
  · simp only [sampleTick]
    split_ifs <;> rfl
  · rfl
  · rfl

/-- From `s` to `t` a transaction has gone on for `n` TICKs: PS has counted them, and only UT and the environment
have moved besides. -/
structure Passes (n : Nat) (s t : State) : Prop where
  cfg : t.cfg = s.cfg
  rs : t.rs = s.rs
  ps : t.ps = countTicks s.cfg n s.ps
  sl : t.sl = s.sl
  op : t.ut.op = s.ut.op

theorem Passes.trans {m n : Nat} {s t u : State} (h : Passes m s t) (h' : Passes n t u) : Passes (m + n) s u where
  cfg := h'.cfg.trans h.cfg
  rs := h'.rs.trans h.rs
  ps := by rw [h'.ps, h.ps, h.cfg, countTicks_countTicks]
  sl := h'.sl.trans h.sl
  op := h'.op.trans h.op

theorem Passes.quiet {n : Nat} {s t : State} (h : Passes n s t) (hq : Quiet s) : Quiet t where
  valid := by rw [h.cfg, hq.valid]
  idle := by rw [h.sl, hq.idle]
  range := by rw [h.ps, h.cfg]; exact Nat.mod_lt _ (Nat.two_pow_pos _)

theorem passes_tick {s : State} (hq : Quiet s) : Passes 1 s (tick s) where
  cfg := tick_cfg s
  rs := tick_rs s
  ps := by
    have range : (utTick s).ps.elapsed < 2 ^ (utTick s).cfg.elapsedW := by simpa using hq.range
    rw [tick_idle hq.idle, psTick_eq_countTicks range, utTick_cfg, utTick_ps]
  sl := by simp [tick_idle hq.idle]
  op := by rw [tick_ut, utTick_op]

theorem passes_iterate (n : Nat) {s : State} (hq : Quiet s) : Passes n s (tick^[n] s) := by
  induction n with
  | zero => exact ⟨rfl, rfl, (countTicks_zero hq.range).symm, rfl, rfl⟩
  | succ n ih =>
    rw [Function.iterate_succ_apply']
    exact ih.trans (passes_tick (ih.quiet hq))

/-- The moves `ms` lead from `s` to `t`, and `n` TICKs of a transaction pass in them. -/
def Run (ms : List Move) (n : Nat) (s t : State) : Prop := Leads ms s t ∧ Passes n s t

theorem Run.append {ms ns : List Move} {m n : Nat} {s t u : State} (h : Run ms m s t) (h' : Run ns n t u) :
    Run (ms ++ ns) (m + n) s u := ⟨leads_append h.1 h'.1, h.2.trans h'.2⟩

theorem run_nil {s : State} (hq : Quiet s) : Run [] 0 s (s.withMoves []) :=
  ⟨leads_nil s, rfl, rfl, (countTicks_zero hq.range).symm, rfl, rfl⟩

theorem run_ticks (n : Nat) {s : State} (hq : Quiet s) :
    Run (List.replicate n .tick) n s ((tick^[n] s).withMoves []) := by
  obtain ⟨cfg, rs, ps, sl, op⟩ := passes_iterate n hq
  exact ⟨leads_replicate_tick n hq.valid, cfg, rs, ps, sl, op⟩

/-- A level held for `n` TICKs. -/
theorem run_hold (v : Drive) (n : Nat) {s : State} (hq : Quiet s) :
    Run (holdMoves v [n]) n s ((tick^[n] (periDrive v s)).withMoves []) := by
  have hq' : Quiet (periDrive v s) := ⟨hq.valid, hq.idle, hq.range⟩
  obtain ⟨ticks, cfg, rs, ps, sl, op⟩ := run_ticks n hq'
  refine ⟨(leads_cons_iff hq.valid).2 ⟨periDrive v s, rfl, ?_⟩, cfg, rs, ps, sl, op⟩
  rwa [holdMoves, List.append_nil]

theorem holdMoves_cons (v : Drive) (n : Nat) (ns : List Nat) :
    holdMoves v (n :: ns) = holdMoves v [n] ++ holdMoves (otherDrive v) ns := by
  simp [holdMoves]

theorem holdMoves_append (v : Drive) (ns ms : List Nat) :
    holdMoves v (ns ++ ms) = holdMoves v ns ++ holdMoves (otherDrive^[ns.length] v) ms := by
  induction ns generalizing v with
  | nil => rfl
  | cons n ns ih =>
    rw [List.cons_append, holdMoves_cons, ih, holdMoves_cons v n ns, List.append_assoc]
    rfl

/-! ### The send -/

/-- UT_SEND with `left` ticks of the waveform to go. -/
structure Sending (left : Nat) (u : Ut) : Prop where
  phase : u.phase = .send
  started : 1 ≤ u.segLeft
  lasting : ∀ g ∈ u.segs, 1 ≤ g.ticks
  duration : u.segLeft + (u.segs.map (·.ticks)).sum = left
  samples : u.samples = []
  noTimeout : u.timedOut = false

/-- UT_SAMPLE with the line released and nothing measured yet. -/
structure SampleBegun (u : Ut) : Prop where
  phase : u.phase = .sample
  drive : u.drive = .released
  samples : u.samples = []
  cnt : u.cnt = 0
  noTimeout : u.timedOut = false

/-- Before the last tick of the waveform a TICK counts one tick of it. -/
theorem Sending.counts {left : Nat} {u : Ut} (h : Sending (left + 1) u) (more : 1 ≤ left) :
    Sending left (sendTick u) := by
  obtain ⟨phase, started, lasting, duration, samples, noTimeout⟩ := h
  by_cases inside : 1 < u.segLeft
  · rw [sendTick_counts inside]
    exact ⟨phase, by simp only; omega, lasting, by simp only; omega, samples, noTimeout⟩
  · cases segs : u.segs with
    | nil => simp [segs] at duration; omega
    | cons g rest =>
      rw [sendTick_next (Nat.not_lt.1 inside) segs]
      rw [segs] at lasting duration
      obtain ⟨first, others⟩ := List.forall_mem_cons.1 lasting
      rw [List.map_cons, List.sum_cons] at duration
      exact ⟨phase, first, others, by simp only; omega, samples, noTimeout⟩

/-- At the last tick of the waveform a TICK begins the sampling. -/
theorem Sending.ends {u : Ut} (h : Sending 1 u) : SampleBegun (sendTick u) := by
  obtain ⟨-, started, lasting, duration, samples, noTimeout⟩ := h
  cases segs : u.segs with
  | nil =>
    rw [sendTick_ends (by omega) segs]
    exact ⟨rfl, rfl, samples, rfl, noTimeout⟩
  | cons g rest =>
    rw [segs] at lasting duration
    obtain ⟨first, -⟩ := List.forall_mem_cons.1 lasting
    rw [List.map_cons, List.sum_cons] at duration
    omega

/-- `n` TICKs before the end of the waveform count `n` ticks of it. -/
theorem iterate_tick_sending {left : Nat} (n : Nat) {s : State} (h : Sending (left + n) s.ut) (more : 1 ≤ left) :
    Sending left (tick^[n] s).ut := by
  induction n generalizing s with
  | zero => exact h
  | succ n ih =>
    refine ih ?_
    rw [tick_ut_send h.phase]
    exact h.counts (Nat.le_add_right_of_le more)

/-- The send lasts as many TICKs as the waveform. -/
theorem iterate_tick_sent {left : Nat} {s : State} (h : Sending left s.ut) : SampleBegun (tick^[left] s).ut := by
  have pos : 1 ≤ left := h.duration ▸ Nat.le_add_right_of_le h.started
  obtain ⟨n, rfl⟩ := Nat.exists_eq_add_of_le pos
  have last : Sending 1 (tick^[n] s).ut := iterate_tick_sending n h le_rfl
  rw [Nat.add_comm, Function.iterate_succ_apply', tick_ut_send last.phase]
  exact last.ends

/-! ### The measuring of a held level -/

/-- The level that a driver gives to a line nobody else drives. -/
def driveLevel : Drive → Bool
  | .low => false
  | .released => true

theorem driveLevel_otherDrive_ne (v : Drive) : driveLevel v ≠ driveLevel (otherDrive v) := by cases v <;> decide

theorem ubus_of_released {s : State} (h : s.ut.drive = .released) : ubus s = driveLevel s.env.periDrive := by
  cases hp : s.env.periDrive <;> simp [ubus, h, hp, driveLevel]

/-- The counts measured so far, the one in progress included. -/
def measured (u : Ut) : List Nat := if u.cnt = 0 then u.samples else u.samples ++ [u.cnt]

/-- UT_SAMPLE at the point where a peripheral that drives `v` begins a count: nothing is measured yet, or the last
level was the other one. -/
structure Awaits (v : Drive) (u : Ut) : Prop where
  phase : u.phase = .sample
  drive : u.drive = .released
  noTimeout : u.timedOut = false
  fresh : u.cnt = 0 ∧ u.samples = [] ∨ u.cnt ≠ 0 ∧ driveLevel v ≠ u.curLevel

theorem SampleBegun.awaits {u : Ut} (h : SampleBegun u) (v : Drive) : Awaits v u :=
  ⟨h.phase, h.drive, h.noTimeout, .inl ⟨h.cnt, h.samples⟩⟩

theorem SampleBegun.measured_eq_nil {u : Ut} (h : SampleBegun u) : measured u = [] := by
  simp [measured, h.cnt, h.samples]

/-- UT in the `k`-th tick of a level that the peripheral holds by `v`, the levels before it measured as `p`. -/
def counting (u : Ut) (v : Drive) (p : List Nat) (k : Nat) : Ut :=
  { u with samples := p, curLevel := driveLevel v, cnt := k }

/-- The first TICK of a new level closes the count before it and begins a new one. -/
theorem tick_begins_count {s : State} (h : Awaits s.env.periDrive s.ut) (short : (measured s.ut).length < 129) :
    (tick s).ut = counting s.ut s.env.periDrive (measured s.ut) 1 := by
  rw [tick_ut_sample h.phase, ubus_of_released h.drive]
  obtain ⟨cnt, samples⟩ | ⟨cnt, level⟩ := h.fresh
  · rw [sampleTick_begins cnt, counting, measured, if_pos cnt]
  · rw [measured, if_neg cnt, List.length_append, List.length_singleton] at short
    rw [sampleTick_closes cnt level (by omega), counting, measured, if_neg cnt]

/-- UT_DECODE after a whole response with the counts `ns`. -/
structure Completed (ns : List Nat) (u : Ut) : Prop where
  phase : u.phase = .decode
  noTimeout : u.timedOut = false
  samples : u.samples = ns

/-- UT_DECODE after a timeout that came when `p` was measured. -/
structure TimedOut (p : List Nat) (u : Ut) : Prop where
  phase : u.phase = .decode
  timedOut : u.timedOut = true
  samples : u.samples = p

/-- The TICK after the 129th level ends the sampling. -/
theorem tick_completes {s : State} (h : Awaits s.env.periDrive s.ut) (full : (measured s.ut).length = 129) :
    Completed (measured s.ut) (tick s).ut := by
  rw [tick_ut_sample h.phase, ubus_of_released h.drive]
  obtain ⟨cnt, samples⟩ | ⟨cnt, level⟩ := h.fresh
  · simp [measured, cnt, samples] at full
  · rw [measured, if_neg cnt] at full ⊢
    rw [sampleTick_completes cnt level (by simpa using full)]
    exact ⟨rfl, h.noTimeout, rfl⟩

/-- While the level is held, the next TICK reads it again. -/
theorem iterate_tick_rereads {s : State} (h : Awaits s.env.periDrive s.ut) {p : List Nat} {n k : Nat}
    (before : (tick^[n] s).ut = counting s.ut s.env.periDrive p k) :
    (tick^[n + 1] s).ut =
      sampleTick s.cfg (driveLevel s.env.periDrive) (counting s.ut s.env.periDrive p k) := by
  have phase : (tick^[n] s).ut.phase = .sample := by rw [before]; exact h.phase
  have drive : (tick^[n] s).ut.drive = .released := by rw [before]; exact h.drive
  have cfg : (tick^[n] s).cfg = s.cfg := iterate_tick_keeps tick_cfg n s
  rw [Function.iterate_succ_apply', tick_ut_sample phase, ubus_of_released drive, iterate_tick_env, cfg, before]

/-- A held level is counted, up to SMAX. -/
theorem iterate_tick_counts {s : State} (h : Awaits s.env.periDrive s.ut) (short : (measured s.ut).length < 129)
    {n : Nat} (hn : 1 ≤ n) (hm : n ≤ s.cfg.smax) :
    (tick^[n] s).ut = counting s.ut s.env.periDrive (measured s.ut) n := by
  induction n, hn using Nat.le_induction with
  | base => exact tick_begins_count h short
  | succ n hn ih =>
    rw [iterate_tick_rereads h (ih (by omega))]
    exact sampleTick_counts (Nat.one_le_iff_ne_zero.1 hn) (Nat.ne_of_lt hm)

/-- A level held for SMAX + 1 TICKs is a timeout, and its own count is no sample. -/
theorem iterate_tick_times_out {s : State} (hv : s.cfg.valid = true) (h : Awaits s.env.periDrive s.ut)
    (short : (measured s.ut).length < 129) : TimedOut (measured s.ut) (tick^[s.cfg.smax + 1] s).ut := by
  have pos : 1 ≤ s.cfg.smax := smax_pos hv
  rw [iterate_tick_rereads h (iterate_tick_counts h short pos le_rfl)]
  have expired := sampleTick_times_out (u := counting s.ut s.env.periDrive (measured s.ut) s.cfg.smax)
    (Nat.one_le_iff_ne_zero.1 pos) rfl
  exact expired ▸ ⟨rfl, rfl, rfl⟩

/-- The peripheral holds a level for SMAX + 1 TICKs. -/
theorem run_hold_times_out {v : Drive} {s : State} (hq : Quiet s) (h : Awaits v s.ut)
    (short : (measured s.ut).length < 129) :
    ∃ t, Run (holdMoves v [s.cfg.smax + 1]) (s.cfg.smax + 1) s t ∧ TimedOut (measured s.ut) t.ut :=
  ⟨_, run_hold v _ hq, iterate_tick_times_out (s := periDrive v s) hq.valid h short⟩

/-- The peripheral changes the level after the 129th. -/
theorem run_hold_completes {v : Drive} {s : State} (hq : Quiet s) (h : Awaits v s.ut)
    (full : (measured s.ut).length = 129) :
    ∃ t, Run (holdMoves v [1]) 1 s t ∧ Completed (measured s.ut) t.ut :=
  ⟨_, run_hold v 1 hq, tick_completes (s := periDrive v s) h full⟩

/-- A level held for `n` TICKs, 1 to SMAX, is measured as `n`, and the other level is awaited then. -/
theorem run_hold_measures {v : Drive} {n : Nat} {s : State} (hq : Quiet s) (h : Awaits v s.ut)
    (short : (measured s.ut).length < 129) (hn : 1 ≤ n ∧ n ≤ s.cfg.smax) :
    ∃ t, Run (holdMoves v [n]) n s t ∧ Awaits (otherDrive v) t.ut ∧ measured t.ut = measured s.ut ++ [n] := by
  have nonzero : n ≠ 0 := Nat.one_le_iff_ne_zero.1 hn.1
  have ut : (tick^[n] (periDrive v s)).ut = counting s.ut v (measured s.ut) n :=
    iterate_tick_counts (s := periDrive v s) h short hn.1 hn.2
  refine ⟨_, run_hold v n hq, ?_, ?_⟩ <;> rw [State.withMoves_ut, ut]
  · exact ⟨h.phase, h.drive, h.noTimeout, .inr ⟨nonzero, (driveLevel_otherDrive_ne v).symm⟩⟩
  · exact if_neg nonzero

/-- Alternating levels are measured as the TICKs they are held for. -/
theorem run_holds_measure {ns : List Nat} {v : Drive} {s : State} (hq : Quiet s) (h : Awaits v s.ut)
    (short : (measured s.ut).length + ns.length ≤ 129) (hns : ∀ n ∈ ns, 1 ≤ n ∧ n ≤ s.cfg.smax) :
    ∃ t, Run (holdMoves v ns) ns.sum s t ∧ Awaits (otherDrive^[ns.length] v) t.ut ∧
      measured t.ut = measured s.ut ++ ns := by
  induction ns generalizing v s with
  | nil => exact ⟨_, run_nil hq, h, (List.append_nil _).symm⟩
  | cons n ns ih =>
    rw [List.length_cons] at short
    obtain ⟨hn, hns⟩ := List.forall_mem_cons.1 hns
    obtain ⟨t, run, awaits, counts⟩ := run_hold_measures hq h (by omega) hn
    have short' : (measured t.ut).length + ns.length ≤ 129 := by
      rw [counts, List.length_append, List.length_singleton]
      omega
    obtain ⟨u, run', awaits', counts'⟩ := ih (run.2.quiet hq) awaits short' (by rwa [run.2.cfg])
    refine ⟨u, ?_, awaits', by rw [counts', counts, List.append_assoc, List.singleton_append]⟩
    rw [holdMoves_cons, List.sum_cons]
    exact run.append run'

/-! ### A transaction from its accept step to its answer -/

/-- `a` is the state right after the accept step of the POLL or PROBE `i` from `s`: the whole waveform is to come. -/
structure Begun (i : Instr) (s a : State) : Prop where
  accepted : exec i s = .next a
  quiet : Quiet a
  gate : a.sl.lpend = false
  sending : Sending s.cfg.sendTicks a.ut
  cfg : a.cfg = s.cfg
  rs : a.rs = s.rs
  ps : a.ps = s.ps
  sl : a.sl = s.sl
  op : a.ut.op = .poll ↔ i = .poll

/-- Each accept step has the whole waveform before it. -/
theorem acceptTransaction_sending (op : UtOp) (w : Word) {s : State} (hv : s.cfg.valid = true) :
    Sending s.cfg.sendTicks (acceptTransaction op w s).ut := by
  obtain ⟨g, rest, hg, e⟩ := acceptTransaction_eq op w s
  have ticks : ∀ g ∈ frameSegs s.cfg s.cfg.cmdFrame s.cfg.cmdLen, 1 ≤ g.ticks := fun g hg =>
    (frameSegs_ticks hv _ _ g hg).1
  have duration := frameSegs_duration s.cfg s.cfg.cmdFrame s.cfg.cmdLen
  rw [hg] at ticks duration
  obtain ⟨first, others⟩ := List.forall_mem_cons.1 ticks
  rw [e]
  exact ⟨rfl, first, others, duration, rfl, rfl⟩

/-- On a ready port POLL and PROBE begin a transaction. -/
theorem transaction_begins {s : State} (inv : Inv s) (hr : portReady s = true) {i : Instr}
    (hi : i ∈ [Instr.poll, Instr.probe]) : ∃ a, Begun i s a := by
  obtain ⟨valid, -, ⟨range, -⟩, -⟩ := inv
  obtain ⟨idle, lpend, -⟩ := (portReady_iff s).1 hr
  have begun (op : UtOp) (w : Word) (hx : exec i s = .next (acceptTransaction op w s))
      (hop : op = .poll ↔ i = .poll) : Begun i s (acceptTransaction op w s) :=
    ⟨hx, ⟨valid, idle, range⟩, lpend, acceptTransaction_sending op w valid, rfl, rfl, rfl, rfl, hop⟩
  simp only [List.mem_cons, List.not_mem_nil, or_false] at hi
  obtain rfl | rfl := hi
  · exact ⟨_, begun .poll _ (exec_poll_ready hr) (by simp)⟩
  · exact ⟨_, begun .probe _ (exec_probe_ready hr) (by simp)⟩

/-- SEND_TICKS TICKs after the accept step the sampling begins. -/
theorem Begun.sent {i : Instr} {s a : State} (h : Begun i s a) :
    ∃ t, Run (List.replicate s.cfg.sendTicks .tick) s.cfg.sendTicks a t ∧ SampleBegun t.ut :=
  ⟨_, run_ticks _ h.quiet, iterate_tick_sent h.sending⟩

/-- Settles O28: the ticks of the waveform are counted one by one, and PS counts with them. -/
theorem sendLastsSendTicks : Obligations.SendLastsSendTicks := by
  intro s inv hr i hi
  obtain ⟨a, h⟩ := transaction_begins inv hr hi
  refine ⟨a, h.accepted, fun n hn => ?_, ?_⟩
  · have during : Sending (s.cfg.sendTicks - n) (tick^[n] a).ut :=
      iterate_tick_sending n (by rw [Nat.sub_add_cancel hn.le]; exact h.sending) (by omega)
    exact ⟨_, leads_replicate_tick n h.quiet.valid, during.phase⟩
  · obtain ⟨t, ⟨leads, passes⟩, begun⟩ := h.sent
    refine ⟨t, leads, begun.phase, begun.drive, begun.samples, begun.cnt, ?_, ?_⟩ <;> rw [passes.ps, h.cfg, h.ps]
    · rfl
    · simp [countTicks]

/-- The decode step of a transaction that has lasted `n` TICKs leaves SL alone and elapsed as counted. -/
theorem Begun.decodes {i : Instr} {s a u : State} {n : Nat} (h : Begun i s a) (hp : Passes n a u)
    (phase : u.ut.phase = .decode) :
    Leads [.block] u ((utDecode u).withMoves []) ∧ (utDecode u).sl = s.sl ∧ (utDecode u).ut.phase = .idle ∧
      (utDecode u).ps.elapsed = (s.ps.elapsed + n) % 2 ^ s.cfg.elapsedW := by
  have idle : u.sl.phase = .idle := (hp.quiet h.quiet).idle
  have gate : u.sl.lpend = false := by rw [hp.sl, h.gate]
  have valid : u.cfg.valid = true := (hp.quiet h.quiet).valid
  refine ⟨(leads_cons_iff valid).2 ⟨_, blockStep_decodes phase idle gate, leads_nil _⟩, ?_, ?_, ?_⟩
  · rw [utDecode_sl, hp.sl, h.sl]
  · rw [utDecode_ut]
  · rw [utDecode_ps, hp.ps, h.ps, h.cfg]
    rfl

/-- A transaction that has timed out is answered so, and RS is untouched (40_transceiver R119, R127). -/
theorem Begun.answers_timeout {i : Instr} {s a u : State} {n : Nat} (h : Begun i s a) (hp : Passes n a u)
    (phase : u.ut.phase = .decode) (timedOut : u.ut.timedOut = true) :
    ∃ t, Leads [.block] u t ∧ t.rs = s.rs ∧ t.sl = s.sl ∧ t.ut.phase = .idle ∧
      t.port = ⟨none, some (if i = .poll then ⟨.receiveTimeout, 0⟩ else ⟨.ok, 0⟩)⟩ ∧
      t.ps.elapsed = (s.ps.elapsed + n) % 2 ^ s.cfg.elapsedW := by
  obtain ⟨leads, sl, idle, elapsed⟩ := h.decodes hp phase
  obtain ⟨rs, port⟩ := utDecode_of_error (decodeVerdict_timeout timedOut)
  refine ⟨_, leads, rs.trans (hp.rs.trans h.rs), sl, idle, port.trans ?_, elapsed⟩
  simp only [hp.op, h.op]

/-- A transaction that has measured a whole response is answered so, and POLL stores the report
(40_transceiver R119, R121). -/
theorem Begun.answers_report {i : Instr} {s a u : State} {n : Nat} {r : Report} (h : Begun i s a)
    (hp : Passes n a u) (phase : u.ut.phase = .decode) (timedOut : u.ut.timedOut = false)
    (report : decodeReport s.cfg u.ut.samples = some r) :
    ∃ t, Leads [.block] u t ∧ t.rs = (if i = .poll then { s.rs with lastBuilt := r } else s.rs) ∧
      t.port = ⟨none, some (if i = .poll then ⟨.ok, 0⟩ else ⟨.ok, 1⟩)⟩ ∧ t.sl = s.sl ∧ t.ut.phase = .idle ∧
      t.ps.elapsed = (s.ps.elapsed + n) % 2 ^ s.cfg.elapsedW := by
  obtain ⟨leads, sl, idle, elapsed⟩ := h.decodes hp phase
  rw [← h.cfg, ← hp.cfg] at report
  obtain ⟨rs, port⟩ := utDecode_of_ok (decodeVerdict_report timedOut report)
  refine ⟨_, leads, rs.trans ?_, port.trans ?_, sl, idle, elapsed⟩ <;> simp only [hp.op, h.op, hp.rs, h.rs]

/-- Settles O27: the sampling reads one level, which the peripheral holds, until it times out. -/
theorem silentPeripheralTimesOut : Obligations.SilentPeripheralTimesOut := by
  intro s inv hr i hi
  obtain ⟨a, h⟩ := transaction_begins inv hr hi
  obtain ⟨b, sent, begun⟩ := h.sent
  have quiet : Quiet b := sent.2.quiet h.quiet
  have cfg : b.cfg = s.cfg := sent.2.cfg.trans h.cfg
  have out : TimedOut (measured b.ut) (tick^[s.cfg.smax + 1] b).ut :=
    cfg ▸ iterate_tick_times_out quiet.valid (begun.awaits _) (by simp [begun.measured_eq_nil])
  have run := sent.append (run_ticks (s.cfg.smax + 1) quiet)
  obtain ⟨t, answered, rs, sl, idle, port, elapsed⟩ := h.answers_timeout run.2 out.phase out.timedOut
  rw [← List.replicate_add, ← Nat.add_assoc] at run
  exact ⟨a, t, h.accepted, leads_append run.1 answered, rs, sl, idle, port, by simpa only [Nat.add_assoc] using elapsed⟩

/-- After the send, alternating levels are measured as the TICKs they are held for. -/
theorem Begun.measures {i : Instr} {s a : State} (h : Begun i s a) (v : Drive) {ns : List Nat}
    (short : ns.length ≤ 129) (counts : ∀ n ∈ ns, 1 ≤ n ∧ n ≤ s.cfg.smax) :
    ∃ t, Run (List.replicate s.cfg.sendTicks .tick ++ holdMoves v ns) (s.cfg.sendTicks + ns.sum) a t ∧
      Awaits (otherDrive^[ns.length] v) t.ut ∧ measured t.ut = ns := by
  obtain ⟨b, sent, begun⟩ := h.sent
  have short' : (measured b.ut).length + ns.length ≤ 129 := by simpa [begun.measured_eq_nil] using short
  have counts' : ∀ n ∈ ns, 1 ≤ n ∧ n ≤ b.cfg.smax := by rwa [sent.2.cfg, h.cfg]
  obtain ⟨t, held, awaits, measures⟩ := run_holds_measure (sent.2.quiet h.quiet) (begun.awaits v) short' counts'
  exact ⟨t, sent.append held, awaits, by rw [measures, begun.measured_eq_nil, List.nil_append]⟩

/-- Settles O53: the levels of the cut response are measured, and the one held after them times out. -/
theorem responseCutShortTimesOut : Obligations.ResponseCutShortTimesOut := by
  intro s p v inv hr short counts i hi
  obtain ⟨a, h⟩ := transaction_begins inv hr hi
  obtain ⟨b, held, awaits, measures⟩ := h.measures v short.le counts
  obtain ⟨u, last, out⟩ := run_hold_times_out (held.2.quiet h.quiet) awaits (by rwa [measures])
  rw [held.2.cfg, h.cfg] at last
  have run := held.append last
  obtain ⟨t, answered, rs, sl, idle, port, elapsed⟩ := h.answers_timeout run.2 out.phase out.timedOut
  rw [List.append_assoc, ← holdMoves_append] at run
  refine ⟨a, u, t, h.accepted, run.1, out.phase, out.timedOut, out.samples.trans measures, answered,
    rs, sl, idle, port, ?_⟩
  simpa only [Nat.add_assoc] using elapsed

/-- Settles O29: the 129 levels are measured, and the change after them completes the response. -/
theorem completeResponseIsMeasuredAndDecoded : Obligations.CompleteResponseIsMeasuredAndDecoded := by
  intro s ns v inv hr full counts i hi
  obtain ⟨a, h⟩ := transaction_begins inv hr hi
  obtain ⟨b, held, awaits, measures⟩ := h.measures v full.le counts
  obtain ⟨u, last, done⟩ := run_hold_completes (held.2.quiet h.quiet) awaits (by rwa [measures])
  have run := held.append last
  obtain ⟨r, report, -⟩ := decodeReport_bits s.cfg full
  have decoded : decodeReport s.cfg u.ut.samples = some r := by rw [done.samples, measures, report]
  obtain ⟨t, answered, rs, port, sl, idle, elapsed⟩ := h.answers_report run.2 done.phase done.noTimeout decoded
  refine ⟨a, t, r, h.accepted, report, ?_, rs, port, sl, idle, by simpa only [Nat.add_assoc] using elapsed⟩
  rw [waveMoves_eq_holdMoves, holdMoves_append, ← List.append_assoc]
  exact leads_append run.1 answered

end Sys2Proof.Machine
end

section
/-! PROOFS. The report store: its commands one by one, the only writers of its registers, and the change-detection laws
over runs (41_report_store R140 to R145, 20_memory R67, 30_encoding R81, 70_reset_and_hazards R240). -/

namespace Sys2Proof

/-! ### The words of the idx form -/

/-- The word of an idx-form command is its opcode's first word plus the index (30_encoding R81, R85). -/
theorem idxWord_toNat (opc : Byte) (k : BitVec 3) : (opc ++ (0#5 ++ k)).toNat = opc.toNat * 256 + k.toNat := by
  have index : (0#5 ++ k).toNat = k.toNat := by
    rw [BitVec.toNat_append, BitVec.toNat_zero, Nat.zero_shiftLeft, Nat.zero_or]
  rw [BitVec.toNat_append, index, ← Nat.shiftLeft_add_eq_or_of_lt (by omega), Nat.shiftLeft_eq]

/-- A word of RDBUILT's or RDSENT's opcode with an index above 7 does not decode. -/
theorem decode_error_of_large_index {w : Word} (hopc : w.toNat / 256 ∈ [0x12, 0x13]) (harg : 8 ≤ w.toNat % 256) :
    ∃ e, decode w = .error e := by
  have illegal : ¬ ∃ i, decode w = .ok i :=
    (illegal_groups w).2 (.inr <| .inr <| .inr <| .inr <| .inr <| .inr ⟨hopc, by omega⟩)
  cases hd : decode w with
  | ok i => exact absurd ⟨i, hd⟩ illegal
  | error e => exact ⟨e, rfl⟩

namespace Machine

/-! ### CHANGED, BUILD, RDBUILT and RDSENT -/

/-- The banks differ where some byte differs. -/
theorem banksDiffer_iff (r : Rs) : banksDiffer r = true ↔ ∃ i : Fin 8, r.lastBuilt[i] ≠ r.lastSent[i] := by
  rw [banksDiffer, decide_eq_true_iff, ← not_forall, not_iff_not]
  exact ⟨fun equal i => by rw [equal], fun bytes => Vector.ext fun j hj => bytes ⟨j, hj⟩⟩

theorem reportChanged_iff (r : Rs) :
    reportChanged r = true ↔ r.first = true ∨ ∃ i : Fin 8, r.lastBuilt[i] ≠ r.lastSent[i] := by
  rw [reportChanged, Bool.or_eq_true, banksDiffer_iff]

theorem reportChanged_eq_false_iff (r : Rs) :
    reportChanged r = false ↔ r.first = false ∧ r.lastBuilt = r.lastSent := by
  simp [reportChanged, banksDiffer]

theorem bitData_eq_ite {b : Bool} {p : Prop} [Decidable p] (h : b = true ↔ p) :
    bitData b = if p then 1 else 0 := by
  cases b <;> simp_all [bitData]

theorem bitData_eq_zero_iff (b : Bool) : bitData b = 0 ↔ b = false := by cases b <;> decide

theorem exec_changed_ready {s : State} (hr : portReady s = true) :
    exec .changed s =
      .next (respond .ok (bitData (reportChanged s.rs)) { s with rs := { s.rs with first := false } }) := by
  rw [exec, execChanged, onPort_ready _ hr]

theorem exec_build_ready {s : State} (hr : portReady s = true) :
    exec .build s = .next (respond .ok 0 { s with rs := { s.rs with lastSent := s.rs.lastBuilt } }) := by
  rw [exec, execBuild, onPort_ready _ hr]

/-- Settles O12: the answer is CHANGED's flag, which is FIRST or a differing byte. -/
theorem changedAnswersFirstOrDifference : Obligations.ChangedAnswersFirstOrDifference := by
  refine ⟨rfl, fun s hr => ?_⟩
  rw [exec_changed_ready hr, bitData_eq_ite (reportChanged_iff s.rs), respond]

/-- Settles O13: the step on a ready port is the written state. -/
theorem buildCopiesTheWholeReport : Obligations.BuildCopiesTheWholeReport :=
  ⟨rfl, fun _ => exec_build_ready⟩

/-- Settles O14: the word by its fields, and the step on a ready port. -/
theorem rdbuiltAnswersTheByte : Obligations.RdbuiltAnswersTheByte :=
  ⟨idxWord_toNat 0x12#8, fun _ _ hr => onPort_ready _ hr,
    fun w _ _ => decode_error_of_large_index (by simp; omega) (by omega)⟩

/-- Settles O15: the word by its fields, and the step on a ready port. -/
theorem rdsentAnswersTheByte : Obligations.RdsentAnswersTheByte :=
  ⟨idxWord_toNat 0x13#8, fun _ _ hr => onPort_ready _ hr,
    fun w _ _ => decode_error_of_large_index (by simp; omega) (by omega)⟩

/-! ### The writers of RS -/

@[simp] theorem latchIn_rs (v : Bool) (s : State) : (latchIn v s).rs = s.rs := by
  rcases latchIn_cases v s with ⟨h, -⟩ | ⟨h, -⟩ | ⟨h, -⟩ | ⟨h, -⟩ | ⟨h, -⟩ | ⟨h, -⟩ | ⟨h, -⟩ <;> simp [h]
@[simp] theorem clkIn_rs (v : Bool) (s : State) : (clkIn v s).rs = s.rs := by
  rcases clkIn_cases v s with ⟨h, -⟩ | ⟨h, -⟩ | ⟨h, -⟩ <;> simp [h]

/-- No command writes RS in its accept step but CHANGED, which clears FIRST, and BUILD (20_memory R67). -/
theorem exec_rs_cases {i : Instr} {s t : State} (h : exec i s = .next t) :
    t.rs = s.rs ∨ (i = .changed ∧ t.rs = { s.rs with first := false }) ∨
    (i = .build ∧ t.rs = { s.rs with lastSent := s.rs.lastBuilt }) := by
  cases i with
  | changed =>
    cases h
    split_ifs
    · exact .inr (.inl ⟨rfl, rfl⟩)
    · exact .inl rfl
  | build =>
    cases h
    split_ifs
    · exact .inr (.inr ⟨rfl, rfl⟩)
    · exact .inl rfl
  | maypoll =>
    cases h
    split_ifs
    · exact .inl (by dsimp only; split <;> rfl)
    · exact .inl rfl
  | _ =>
    cases h
    split_ifs <;> exact .inl rfl

theorem decodeVerdict_eq_ok_iff {s : State} {r : Report} :
    decodeVerdict s = .ok r ↔ s.ut.timedOut = false ∧ decodeReport s.cfg s.ut.samples = some r := by
  simp only [decodeVerdict]
  cases s.ut.timedOut <;> cases decodeReport s.cfg s.ut.samples <;> simp

/-- The decode step that comes next is that of a POLL, and it finds the report `r` (40_transceiver R119). -/
def PollDecodes (r : Report) (s : State) : Prop :=
  s.ut.phase = .decode ∧ s.ut.op = .poll ∧ s.ut.timedOut = false ∧ gateOpen s = true ∧
    decodeReport s.cfg s.ut.samples = some r

/-- The decode step leaves RS alone, or is that of a POLL whose report it stores whole (41_report_store R144). -/
theorem utDecode_rs_cases {s : State} (h : decodeEnabled s = true) :
    (utDecode s).rs = s.rs ∨ ∃ r, PollDecodes r s ∧ (utDecode s).rs = { s.rs with lastBuilt := r } := by
  cases hv : decodeVerdict s with
  | error e => exact .inl (utDecode_of_error hv).1
  | ok r =>
    obtain ⟨stored, -⟩ := utDecode_of_ok hv
    rw [stored]
    split_ifs with poll
    · obtain ⟨noTimeout, decoded⟩ := decodeVerdict_eq_ok_iff.1 hv
      obtain ⟨phase, gate⟩ : s.ut.phase = .decode ∧ gateOpen s = true := by simpa [decodeEnabled] using h
      exact .inr ⟨r, ⟨phase, poll, noTimeout, gate, decoded⟩, rfl⟩
    · exact .inl rfl

/-- The word of `i` waits first, and the port is ready for it. -/
def CommandWaits (i : Instr) (s : State) : Prop := portReady s = true ∧ s.env.cmds.head? = some (encode i)

/-- From `s` to `t` the block writes RS by one of its three writers: the decode step of a successful POLL, or the
acceptance of CHANGED or BUILD (10_state R41, 20_memory R67). -/
def WritesRs (s t : State) : Prop :=
  (∃ r, PollDecodes r s ∧ t.rs = { s.rs with lastBuilt := r }) ∨
  (CommandWaits .changed s ∧ t.rs = { s.rs with first := false }) ∨
  (CommandWaits .build s ∧ t.rs = { s.rs with lastSent := s.rs.lastBuilt })

/-- The block's step leaves RS alone, or is one of the three writers. -/
theorem blockStep_rs_cases {s t : State} (h : blockStep s = .next t) : t.rs = s.rs ∨ WritesRs s t := by
  obtain ⟨-, rfl⟩ | ⟨-, hd, rfl⟩ | ⟨-, -, -, rfl⟩ | ⟨w, rest, i, hr, hc, hd, hx⟩ | ⟨_, _, _, -, -, -, rfl⟩ :=
    blockStep_cases h
  · exact .inl rfl
  · exact (utDecode_rs_cases hd).imp_right .inl
  · exact .inl rfl
  · have waits : CommandWaits i s := ⟨hr, by rw [hc, encode_of_decode hd]; rfl⟩
    obtain same | ⟨rfl, cleared⟩ | ⟨rfl, copied⟩ := exec_rs_cases hx
    · exact .inl same
    · exact .inr (.inr (.inl ⟨waits, cleared⟩))
    · exact .inr (.inr (.inr ⟨waits, copied⟩))
  · exact .inl rfl

/-- RESET apart, a move leaves RS alone, or is the block's step in which it writes RS. -/
theorem perform_rs_cases {m : Move} {s t : State} (hm : m ≠ .reset) (h : perform m s = .next t) :
    t.rs = s.rs ∨ m = .block ∧ WritesRs s t := by
  cases m with
  | reset => exact absurd rfl hm
  | tick => cases h; exact .inl (tick_rs s)
  | peri v => cases h; exact .inl rfl
  | latch v => cases h; exact .inl (latchIn_rs v s)
  | clk v => cases h; exact .inl (clkIn_rs v s)
  | command w => cases h; exact .inl rfl
  | block => exact (blockStep_rs_cases h).imp_right fun writes => ⟨rfl, writes⟩

/-- A writer that leaves another lastBuilt is the decode step of a POLL. -/
theorem WritesRs.pollDecodes {s t : State} (h : WritesRs s t) (changed : t.rs.lastBuilt ≠ s.rs.lastBuilt) :
    PollDecodes t.rs.lastBuilt s := by
  obtain ⟨r, decodes, e⟩ | ⟨-, e⟩ | ⟨-, e⟩ := h
  · rwa [e]
  all_goals exact absurd (by rw [e]) changed

/-- A writer that leaves another lastSent is BUILD. -/
theorem WritesRs.build {s t : State} (h : WritesRs s t) (changed : t.rs.lastSent ≠ s.rs.lastSent) :
    CommandWaits .build s ∧ t.rs.lastSent = s.rs.lastBuilt := by
  obtain ⟨_, -, e⟩ | ⟨-, e⟩ | ⟨waits, e⟩ := h
  · exact absurd (by rw [e]) changed
  · exact absurd (by rw [e]) changed
  · exact ⟨waits, by rw [e]⟩

/-- No writer sets FIRST. -/
theorem WritesRs.first {s t : State} (h : WritesRs s t) (hf : s.rs.first = false) : t.rs.first = false := by
  obtain ⟨_, -, e⟩ | ⟨-, e⟩ | ⟨-, e⟩ := h
  · rw [e, hf]
  · rw [e]
  · rw [e, hf]

/-- Settles O34: a step performs one move, and RESET apart only the block's three writers touch RS. -/
theorem onlyASuccessfulPollWritesLastBuilt : Obligations.OnlyASuccessfulPollWritesLastBuilt := by
  intro s t h
  by_cases hr : s.env.moves.head? = some .reset
  · exact ⟨fun _ => .inl hr, fun _ => .inl hr⟩
  · obtain ⟨m, hm, hblock, hp⟩ := step_performs_no_reset h hr
    constructor
    · intro changed
      obtain same | ⟨rfl, writes⟩ := perform_rs_cases hm hp
      · exact absurd (congrArg Rs.lastBuilt same) changed
      · exact .inr ⟨hblock rfl, writes.pollDecodes changed⟩
    · intro changed
      obtain same | ⟨rfl, writes⟩ := perform_rs_cases hm hp
      · exact absurd (congrArg Rs.lastSent same) changed
      · obtain ⟨⟨ready, word⟩, copied⟩ := writes.build changed
        exact .inr ⟨hblock rfl, word, ready, copied⟩

/-! ### Change detection over runs -/

/-- RESET apart, a move leaves lastSent alone or copies lastBuilt into it. -/
theorem perform_lastSent_cases {m : Move} {s t : State} (hm : m ≠ .reset) (h : perform m s = .next t) :
    t.rs.lastSent = s.rs.lastSent ∨ t.rs.lastSent = s.rs.lastBuilt := by
  by_cases changed : t.rs.lastSent = s.rs.lastSent
  · exact .inl changed
  · obtain same | ⟨-, writes⟩ := perform_rs_cases hm h
    · exact absurd (congrArg Rs.lastSent same) changed
    · exact .inr (writes.build changed).2

/-- Along a run without RESET in which lastBuilt is always `b`, a lastSent that is `b` stays `b`: only a BUILD could write
it, and a BUILD copies `b`. -/
theorem leads_keeps_lastSent {b : Report} {ms : List Move} {s u : State} (run : Leads ms s u) (hm : .reset ∉ ms)
    (built : ∀ (n : Nat) (w : State), Leads (ms.take n) s w → w.rs.lastBuilt = b) (sent : s.rs.lastSent = b) :
    u.rs.lastSent = b := by
  induction ms generalizing s with
  | nil =>
    cases run
    exact sent
  | cons m ms ih =>
    have hv := valid_of_leads_cons run
    obtain ⟨r, hp, rest⟩ := (leads_cons_iff hv).1 run
    obtain ⟨hm, hms⟩ : .reset ≠ m ∧ .reset ∉ ms := by simpa using hm
    have start : s.rs.lastBuilt = b := built 0 (s.withMoves []) (leads_nil s)
    refine ih rest hms (fun n w hw => built (n + 1) w ((leads_cons_iff hv).2 ⟨r, hp, hw⟩)) ?_
    obtain kept | copied := perform_lastSent_cases hm.symm hp
    · exact kept.trans sent
    · exact copied.trans start

/-- After BUILD, as long as lastBuilt stays what it was, the banks are equal. -/
theorem banks_equal_after_build {ms : List Move} {s t u : State} (hr : portReady s = true)
    (hx : exec .build s = .next t) (run : Leads ms t u) (hm : .reset ∉ ms)
    (built : ∀ (n : Nat) (w : State), Leads (ms.take n) t w → w.rs.lastBuilt = t.rs.lastBuilt) :
    u.rs.lastBuilt = u.rs.lastSent := by
  obtain rfl := Host.Outcome.next.inj ((exec_build_ready hr).symm.trans hx)
  have sent := leads_keeps_lastSent run hm built rfl
  exact (built ms.length u (by rwa [List.take_length])).trans sent.symm

/-- On a ready port CHANGED answers 0 exactly where FIRST is 0 and the banks are equal. -/
theorem changed_answers_zero_iff {s t : State} (hr : portReady s = true) (hx : exec .changed s = .next t) :
    t.port.rsp = some ⟨.ok, 0⟩ ↔ s.rs.first = false ∧ s.rs.lastBuilt = s.rs.lastSent := by
  obtain rfl := Host.Outcome.next.inj ((exec_changed_ready hr).symm.trans hx)
  simp [bitData_eq_zero_iff, reportChanged_eq_false_iff]

/-- On a ready port CHANGED clears FIRST and leaves the banks alone. -/
theorem changed_clears_first {s t : State} (hr : portReady s = true) (hx : exec .changed s = .next t) :
    t.rs = { s.rs with first := false } := by
  obtain rfl := Host.Outcome.next.inj ((exec_changed_ready hr).symm.trans hx)
  rfl

/-- A step that is no RESET does not set FIRST. -/
theorem step_keeps_first_clear {s t : State} (h : step s = .next t) (hr : s.env.moves.head? ≠ some .reset)
    (hf : s.rs.first = false) : t.rs.first = false := by
  obtain ⟨m, hm, -, hp⟩ := step_performs_no_reset h hr
  obtain same | ⟨-, writes⟩ := perform_rs_cases hm hp
  · exact (congrArg Rs.first same).trans hf
  · exact writes.first hf

/-- Settles O35: a run from BUILD keeps the banks equal, and CHANGED answers 0 exactly for equal banks with FIRST = 0. -/
theorem changeDetectionLaws : Obligations.ChangeDetectionLaws := by
  refine ⟨fun ms s t u _ hr hx run hm built hu hf => ?_, fun s t hr hx zero => ?_, fun s t hr hx => ?_, fun s t => ?_⟩
  · have equal := banks_equal_after_build hr hx run hm built
    exact ⟨_, exec_changed_ready hu, (changed_answers_zero_iff hu (exec_changed_ready hu)).2 ⟨hf, equal⟩⟩
  · obtain ⟨-, equal⟩ := (changed_answers_zero_iff hr hx).1 zero
    rw [changed_clears_first hr hx]
    exact equal
  · rw [changed_clears_first hr hx]
  · exact step_keeps_first_clear

end Machine
end Sys2Proof
end

section
/-! PROOFS. The poll scheduler: its commands, HOSTPOLLED branch by branch, its part of a TICK, the adaptation law, and the
one grant of a cycle (42_poll_scheduler R160 to R168). -/

namespace Sys2Proof.Machine

/-! ### MAYPOLL and the reads -/

theorem pollGranted_iff (p : Ps) :
    pollGranted p = true ↔ p.mode = .waiting ∧ (p.ovf = true ∨ p.threshold ≤ p.elapsed) := by
  simp [pollGranted, elapsedReached]

theorem exec_maypoll_granted {s : State} (hr : portReady s = true) (hg : pollGranted s.ps = true) :
    exec .maypoll s = .next (respond .ok 1 { s with ps := { s.ps with mode := .ready } }) := by
  rw [exec, execMaypoll, onPort_ready _ hr, if_pos hg]

theorem exec_maypoll_denied {s : State} (hr : portReady s = true) (hg : ¬ pollGranted s.ps = true) :
    exec .maypoll s = .next (respond .ok 0 s) := by
  rw [exec, execMaypoll, onPort_ready _ hr, if_neg hg]

/-- Settles O16: the grant's condition is MAYPOLL's test, and each outcome is the written state. -/
theorem maypollGrantsFromWaitingAtThreshold : Obligations.MaypollGrantsFromWaitingAtThreshold :=
  ⟨rfl, fun s hr =>
    ⟨fun due => exec_maypoll_granted hr ((pollGranted_iff s.ps).2 due),
      fun early => exec_maypoll_denied hr (mt (pollGranted_iff s.ps).1 early)⟩⟩

theorem schedData_eq (p : Ps) : schedData p = (if p.mode = .ready then 1 else 0) + 2 * p.ovf.toNat := by
  rw [schedData, bitData_eq_ite beq_iff_eq, bitData]

/-- Settles O17: each read answers its value on a ready port, and RDSCHED's value is the two bits. -/
theorem schedulerReadsAnswerTheRegisters : Obligations.SchedulerReadsAnswerTheRegisters := by
  refine ⟨rfl, rfl, rfl, fun s hr => ⟨onPort_ready _ hr, onPort_ready _ hr, ?_⟩⟩
  rw [exec, execRdsched, onPort_ready _ hr, schedData_eq, respond]

/-! ### HOSTPOLLED, branch by branch -/

theorem hostPolled_threshold_overflow {s : State} (ho : s.ps.ovf = true) :
    (hostPolled s).ps.threshold = s.cfg.defaultThr := by
  simp [hostPolled, ho]

theorem hostPolled_threshold_below_floor {s : State} (ho : s.ps.ovf = false) (he : s.ps.elapsed < s.cfg.minIdle) :
    (hostPolled s).ps.threshold = s.ps.threshold := by
  simp [hostPolled, ho, he]

/-- At or above the floor and beyond the window, the threshold is the computed value under its clamp. -/
theorem hostPolled_threshold_beyond_window {s : State} (ho : s.ps.ovf = false) (he : s.cfg.minIdle ≤ s.ps.elapsed)
    (hw : s.cfg.pollDur + s.cfg.margin < s.ps.elapsed) :
    (hostPolled s).ps.threshold =
      if s.ps.elapsed - (s.cfg.pollDur + s.cfg.margin) < s.cfg.minIdle then s.cfg.defaultThr
      else s.ps.elapsed - (s.cfg.pollDur + s.cfg.margin) := by
  simp [hostPolled, ho, Nat.not_lt.2 he, hw, Nat.sub_sub]

theorem hostPolled_threshold_within_window {s : State} (ho : s.ps.ovf = false) (he : s.cfg.minIdle ≤ s.ps.elapsed)
    (hw : s.ps.elapsed ≤ s.cfg.pollDur + s.cfg.margin) : (hostPolled s).ps.threshold = s.cfg.defaultThr := by
  simp [hostPolled, ho, Nat.not_lt.2 he, Nat.not_lt.2 hw]

/-- The computed value stands where it is at least the floor, whatever the threshold was (42_poll_scheduler R162). -/
theorem hostPolled_threshold_computed {s : State} (ho : s.ps.ovf = false) (he : s.cfg.minIdle ≤ s.ps.elapsed)
    (hw : s.cfg.pollDur + s.cfg.margin < s.ps.elapsed)
    (hf : s.cfg.minIdle ≤ s.ps.elapsed - (s.cfg.pollDur + s.cfg.margin)) :
    (hostPolled s).ps.threshold = s.ps.elapsed - (s.cfg.pollDur + s.cfg.margin) := by
  rw [hostPolled_threshold_beyond_window ho he hw, if_neg (Nat.not_lt.2 hf)]

/-- Settles O30: a lemma for each branch, and the frame as `hostPolled` writes it. -/
theorem hostPolledAdaptsTheThreshold : Obligations.HostPolledAdaptsTheThreshold := by
  refine fun s => ⟨hostPolled_threshold_overflow, hostPolled_threshold_below_floor, hostPolled_threshold_computed,
    fun ho he hw hf => ?_, hostPolled_threshold_within_window, rfl, rfl, rfl, rfl⟩
  rw [hostPolled_threshold_beyond_window ho he hw, if_pos hf]

/-- Settles O32: the computed value depends on the interval alone, and below the floor each HOSTPOLLED keeps the
threshold it finds. -/
theorem thresholdConvergesAtAConstantInterval : Obligations.ThresholdConvergesAtAConstantInterval := by
  intro s u interval hs hso hc hu huo kept
  subst hs
  rw [Nat.sub_sub]
  refine ⟨fun he hw hf => ⟨hostPolled_threshold_computed hso he hw hf, ?_⟩, fun he => ?_⟩
  · rw [← hc, ← hu] at he hw hf ⊢
    exact hostPolled_threshold_computed huo he hw hf
  · have first : (hostPolled s).ps.threshold = s.ps.threshold := hostPolled_threshold_below_floor hso he
    have next : (hostPolled u).ps.threshold = u.ps.threshold :=
      hostPolled_threshold_below_floor huo (by rwa [hu, hc])
    exact ⟨first, next.trans (kept.trans first)⟩

/-! ### TICK -/

/-- HOSTPOLLED reads the configuration and PS's registers alone to write PS. -/
theorem hostPolled_ps_congr {s t : State} (hc : s.cfg = t.cfg) (hp : s.ps = t.ps) :
    (hostPolled s).ps = (hostPolled t).ps := by
  simp only [hostPolled, hc, hp]

/-- PS's registers once a TICK is counted (42_poll_scheduler R160). -/
def countedTick (c : Params) (p : Ps) : Ps :=
  if p.elapsed = 2 ^ c.elapsedW - 1 then { p with elapsed := 0, ovf := true }
  else { p with elapsed := p.elapsed + 1 }

theorem psTick_ps (s : State) : (psTick s).ps = countedTick s.cfg s.ps := by
  by_cases last : s.ps.elapsed = 2 ^ s.cfg.elapsedW - 1 <;> simp [psTick, elapsedAtMax, countedTick, last]

/-- The watchdog expires in the TICK that comes next, and the abort raises HOSTPOLLED (43_slave_emulator R194). -/
def ExpiryPolls (s : State) : Prop := s.sl.phase ≠ .idle ∧ s.sl.wdt = 1 ∧ s.cfg.recordOnAbort = true

/-- SL's part of a TICK raises HOSTPOLLED at such an expiry, and has no part for PS and the count otherwise. -/
theorem slTick_ps_cases (s : State) :
    (ExpiryPolls s ∧ (slTick s).ps = (hostPolled s).ps ∧ (slTick s).hist.hostPolls = s.hist.hostPolls + 1) ∨
    (¬ ExpiryPolls s ∧ (slTick s).ps = s.ps ∧ (slTick s).hist.hostPolls = s.hist.hostPolls) := by
  obtain ⟨h, idle⟩ | ⟨h, -, running⟩ | ⟨h, active, last⟩ | ⟨h, -, stopped⟩ := slTick_cases s
  · exact .inr ⟨fun e => e.1 idle, by rw [h], by rw [h]⟩
  · exact .inr ⟨fun e => by have := e.2.1; omega, by rw [h], by rw [h]⟩
  · obtain ⟨record, polled⟩ | ⟨silent, kept⟩ :=
      hostPolledOnAbort_cases (handlerReturn .clockTimeout { s with sl := { s.sl with wdt := 0 } })
    · rw [h, polled]
      exact .inl ⟨⟨active, last, record⟩, hostPolled_ps_congr rfl rfl, rfl⟩
    · rw [h, kept]
      exact .inr ⟨fun e => by simp [e.2.2] at silent, rfl, rfl⟩
  · exact .inr ⟨fun e => by have := e.2.1; omega, by rw [h], by rw [h]⟩

/-- Settles O31: PS counts first, and SL's part of the TICK then raises HOSTPOLLED or leaves PS alone. -/
theorem everyTickCountsElapsed : Obligations.EveryTickCountsElapsed := by
  intro s hv counted
  refine does_tick hv fun later => show (tick s).ps = _ from ?_
  have ps : (psTick (utTick s)).ps = counted := by rw [psTick_ps, utTick_cfg, utTick_ps]; rfl
  have expiry : ExpiryPolls (psTick (utTick s)) ↔ ExpiryPolls s := by simp [ExpiryPolls]
  obtain ⟨expires, polled, -⟩ | ⟨goesOn, kept, -⟩ := slTick_ps_cases (psTick (utTick s))
  · have seen : (tick s).ps = (hostPolled { s with ps := counted }).ps :=
      polled.trans (hostPolled_ps_congr (by simp) ps)
    exact seen.trans (if_pos (expiry.1 expires)).symm
  · exact (kept.trans ps).trans (if_neg (mt expiry.2 goesOn)).symm

/-! ### At most one grant a cycle -/

/-- From `s` to `t` the count of HOSTPOLLED (log 8) does not fall, and within one cycle READY stays. -/
structure KeepsGrant (s t : State) : Prop where
  count : s.hist.hostPolls ≤ t.hist.hostPolls
  ready : t.hist.hostPolls = s.hist.hostPolls → s.ps.mode = .ready → t.ps.mode = .ready

theorem KeepsGrant.trans {s t u : State} (h : KeepsGrant s t) (h' : KeepsGrant t u) : KeepsGrant s u where
  count := h.count.trans h'.count
  ready same hs := by
    have := h.count
    have := h'.count
    exact h'.ready (by omega) (h.ready (by omega) hs)

/-- A HOSTPOLLED begins another cycle. -/
theorem keepsGrant_of_polled {s t : State} (h : t.hist.hostPolls = s.hist.hostPolls + 1) : KeepsGrant s t :=
  ⟨by omega, fun same => by omega⟩

theorem keepsGrant_of_same {s t : State} (hh : t.hist.hostPolls = s.hist.hostPolls) (hp : t.ps.mode = s.ps.mode) :
    KeepsGrant s t :=
  ⟨hh.ge, fun _ => hp.trans⟩

theorem tick_keepsGrant (s : State) : KeepsGrant s (tick s) := by
  obtain ⟨-, -, polled⟩ | ⟨-, kept, same⟩ := slTick_ps_cases (psTick (utTick s))
  · exact keepsGrant_of_polled (by rw [tick, polled, psTick_hist, utTick_hist])
  · exact keepsGrant_of_same (by rw [tick, same, psTick_hist, utTick_hist])
      (by rw [tick, kept, psTick_mode, utTick_ps])

theorem hostPolledOnAbort_keepsGrant (s : State) : KeepsGrant s (hostPolledOnAbort s) := by
  obtain ⟨-, h⟩ | ⟨-, h⟩ := hostPolledOnAbort_cases s <;> rw [h]
  · exact keepsGrant_of_polled rfl
  · exact keepsGrant_of_same rfl rfl

/-- Of the moves of latch_in only the abort can raise HOSTPOLLED, and none other has a part for PS. -/
theorem latchIn_keepsGrant (v : Bool) (s : State) : KeepsGrant s (latchIn v s) := by
  rcases latchIn_cases v s with ⟨h, -⟩ | ⟨h, -⟩ | ⟨h, -⟩ | ⟨h, -⟩ | ⟨h, -⟩ | ⟨h, -⟩ | ⟨h, -⟩ <;> rw [h]
  case inr.inr.inr.inr.inl =>
    obtain ⟨count, ready⟩ := hostPolledOnAbort_keepsGrant (labelEnd .latchAbort (seeLatch v s))
    exact ⟨count, ready⟩
  all_goals exact keepsGrant_of_same rfl rfl

/-- Of the moves of clk_in only the last falling edge raises HOSTPOLLED, and none other has a part for PS. -/
theorem clkIn_keepsGrant (v : Bool) (s : State) : KeepsGrant s (clkIn v s) := by
  obtain ⟨h, -⟩ | ⟨h, -⟩ | ⟨h, -⟩ := clkIn_cases v s <;> rw [h]
  · exact keepsGrant_of_same rfl rfl
  · exact keepsGrant_of_polled rfl
  · exact keepsGrant_of_same rfl rfl

/-- No command raises HOSTPOLLED, and none writes PS but MAYPOLL, which sets READY (20_memory R67). -/
theorem exec_keepsGrant {i : Instr} {s t : State} (h : exec i s = .next t) : KeepsGrant s t := by
  cases i with
  | maypoll =>
    cases h
    split_ifs
    · dsimp only
      split
      · exact ⟨le_rfl, fun _ _ => rfl⟩
      · exact keepsGrant_of_same rfl rfl
    · exact keepsGrant_of_same rfl rfl
  | _ =>
    cases h
    split_ifs <;> exact keepsGrant_of_same rfl rfl

theorem utDecode_hist (s : State) : (utDecode s).hist = s.hist := by
  obtain ⟨-, -, -, -, -, hist, -⟩ := answerTransaction_frame s.ut.op (decodeVerdict s) s
  exact hist

theorem blockStep_keepsGrant {s t : State} (h : blockStep s = .next t) : KeepsGrant s t := by
  obtain ⟨-, rfl⟩ | ⟨-, -, rfl⟩ | ⟨-, -, -, rfl⟩ | ⟨_, _, _, -, -, -, hx⟩ | ⟨_, _, _, -, -, -, rfl⟩ :=
    blockStep_cases h
  · exact keepsGrant_of_same rfl rfl
  · exact keepsGrant_of_same (by rw [utDecode_hist]) (by rw [utDecode_ps])
  · exact keepsGrant_of_same rfl rfl
  · obtain ⟨count, ready⟩ := exec_keepsGrant hx
    exact ⟨count, ready⟩
  · exact keepsGrant_of_same rfl rfl

/-- RESET apart, a move raises HOSTPOLLED or keeps READY (42_poll_scheduler R167). -/
theorem perform_keepsGrant {m : Move} {s t : State} (hm : m ≠ .reset) (h : perform m s = .next t) :
    KeepsGrant s t := by
  cases m with
  | reset => exact absurd rfl hm
  | tick => cases h; exact tick_keepsGrant s
  | peri v => cases h; exact keepsGrant_of_same rfl rfl
  | latch v => cases h; exact latchIn_keepsGrant v s
  | clk v => cases h; exact clkIn_keepsGrant v s
  | command w => cases h; exact keepsGrant_of_same rfl rfl
  | block => exact blockStep_keepsGrant h

theorem leads_keepsGrant {ms : List Move} {s t : State} (run : Leads ms s t) (hm : .reset ∉ ms) :
    KeepsGrant s t := by
  induction ms generalizing s with
  | nil =>
    cases run
    exact keepsGrant_of_same rfl rfl
  | cons m ms ih =>
    obtain ⟨r, hp, rest⟩ := (leads_cons_iff (valid_of_leads_cons run)).1 run
    obtain ⟨hm, hms⟩ : .reset ≠ m ∧ .reset ∉ ms := by simpa using hm
    exact (perform_keepsGrant hm.symm hp).trans (ih rest hms)

/-- A MAYPOLL that answers 1 was granted, and leaves READY. -/
theorem granted_of_answer {s t : State} (hr : portReady s = true) (hx : exec .maypoll s = .next t)
    (one : t.port.rsp = some ⟨.ok, 1⟩) : pollGranted s.ps = true ∧ t.ps.mode = .ready := by
  by_cases hg : pollGranted s.ps = true
  · obtain rfl := Host.Outcome.next.inj ((exec_maypoll_granted hr hg).symm.trans hx)
    exact ⟨hg, rfl⟩
  · obtain rfl := Host.Outcome.next.inj ((exec_maypoll_denied hr hg).symm.trans hx)
    simp at one

/-- In READY a MAYPOLL on a ready port answers 0. -/
theorem maypoll_denied_in_ready {s : State} (hr : portReady s = true) (ready : s.ps.mode = .ready) :
    ∃ t, exec .maypoll s = .next t ∧ t.port.rsp = some ⟨.ok, 0⟩ :=
  ⟨_, exec_maypoll_denied hr (by simp [pollGranted_iff, ready]), rfl⟩

/-- Settles O33: an answer 1 is a grant, and within a cycle READY stays along every run, where MAYPOLL is denied. -/
theorem atMostOneGrantPerCycle : Obligations.AtMostOneGrantPerCycle := by
  refine ⟨fun s t hr hx one => ?_, fun ms s t _ hm run => ?_⟩
  · obtain ⟨granted, ready⟩ := granted_of_answer hr hx one
    obtain ⟨waiting, reached⟩ := (pollGranted_iff s.ps).1 granted
    exact ⟨waiting, reached, ready⟩
  · obtain ⟨count, stays⟩ := leads_keepsGrant run hm
    exact ⟨count, fun same hs => ⟨stays same hs, fun hr => maypoll_denied_in_ready hr (stays same hs)⟩⟩

end Sys2Proof.Machine
end

section
/-! PROOFS. The slave emulator's rules, one at a time: its commands, the edges of the latch and the clock, the service
of a pending latch, and the watchdog (43_slave_emulator R180 to R194 and R198). -/

namespace Sys2Proof.Machine

/-! ### SETBYTE, RDBYTE and RDSLV -/

theorem encode_setbyte_toNat (b : Byte) : (encode (.setbyte b)).toNat = 0x3000 + b.toNat := by
  rw [encode, BitVec.toNat_append, ← Nat.shiftLeft_add_eq_or_of_lt b.isLt]
  rfl

theorem exec_setbyte_ready {b : Byte} {s : State} (hr : portReady s = true) :
    exec (.setbyte b) s = .next (respond .ok 0 { s with sl := { s.sl with shiftByte := b } }) := by
  rw [exec, execSetbyte, onPort_ready _ hr]

theorem portReady_of_active {s : State} (active : s.sl.phase ≠ .idle) : portReady s = false :=
  portReady_of_gate_closed ((gateOpen_eq_false_iff s).2 (.inl active))

/-- Settles O18: the word by its fields, and the step on a port that is ready or, during a transaction, is not. -/
theorem setbyteWritesTheShiftByte : Obligations.SetbyteWritesTheShiftByte :=
  ⟨encode_setbyte_toNat, fun _ _ => exec_setbyte_ready, fun _ _ active => exec_waits _ (portReady_of_active active)⟩

/-- Settles O19: each read answers its value on a ready port, where SL is idle and R199 fixes the data line. -/
theorem slaveReadsAnswerTheRegisters : Obligations.SlaveReadsAnswerTheRegisters := by
  refine ⟨rfl, rfl, fun s hr => ⟨onPort_ready _ hr, onPort_ready _ hr, fun slave => ?_⟩⟩
  obtain ⟨idle, -⟩ := (portReady_iff s).1 hr
  obtain ⟨-, dataOut, -⟩ := slave
  exact dataOut idle

/-! ### The latch -/

theorem not_atomicSection {s : State} (send : s.ut.phase ≠ .send) (sample : s.ut.phase ≠ .sample) :
    atomicSection s = false := by
  simp [atomicSection, send, sample]

/-- A rising edge of the latch is an event (43_slave_emulator R184). -/
theorem latchIn_rise {s : State} (low : s.sl.latchLvl = false) :
    latchIn true s = latchRise (seeLatch true s) := by
  simp [latchIn, low]

/-- A falling edge of the latch is an event (43_slave_emulator R184). -/
theorem latchIn_fall {s : State} (high : s.sl.latchLvl = true) :
    latchIn false s = latchFall (seeLatch false s) := by
  simp [latchIn, high]

/-- A latch at the level that SL last saw is no event (43_slave_emulator R184). -/
theorem latchIn_same (s : State) : latchIn s.sl.latchLvl s = seeLatch s.sl.latchLvl s := if_pos rfl

theorem latchRise_atomic {s : State} (ha : atomicSection s = true) :
    latchRise s = { s with sl := { s.sl with lpend := true } } := if_pos ha

theorem latchRise_idle {s : State} (ha : atomicSection s = false) (hp : s.sl.phase = .idle) :
    latchRise s = startTransaction s := by
  simp [latchRise, ha, hp]

theorem latchRise_shift {s : State} (ha : atomicSection s = false) (hp : s.sl.phase = .shift) :
    latchRise s = startTransaction (hostPolledOnAbort (labelEnd .latchAbort s)) := by
  simp [latchRise, ha, hp]

theorem latchFall_waiting {s : State} (hp : s.sl.phase = .waitLatchFall) :
    latchFall s = { s with sl := { s.sl with phase := .shift, wdt := s.cfg.wdtTicks } } := by
  simp [latchFall, hp]

theorem latchFall_elsewhere {s : State} (hp : s.sl.phase ≠ .waitLatchFall) : latchFall s = s := by
  cases h : s.sl.phase with
  | waitLatchFall => exact absurd h hp
  | _ => simp [latchFall, h]

/-- Outside the atomic section a rising edge starts a transaction where SL is idle (43_slave_emulator R185). -/
theorem latchIn_starts {s : State} (ha : atomicSection s = false) (hp : s.sl.phase = .idle)
    (low : s.sl.latchLvl = false) : latchIn true s = startTransaction (seeLatch true s) := by
  rw [latchIn_rise low, latchRise_idle (s := seeLatch true s) ha hp]

/-- Outside the atomic section a rising edge aborts in SL_SHIFT, and starts again (43_slave_emulator R189). -/
theorem latchIn_aborts {s : State} (ha : atomicSection s = false) (hp : s.sl.phase = .shift)
    (low : s.sl.latchLvl = false) :
    latchIn true s = startTransaction (hostPolledOnAbort (labelEnd .latchAbort (seeLatch true s))) := by
  rw [latchIn_rise low, latchRise_shift (s := seeLatch true s) ha hp]

/-- Settles O36: the edge is START, whose writes are written out. -/
theorem latchRiseStartsATransaction : Obligations.LatchRiseStartsATransaction := by
  intro s hv idle low send sample
  refine does_latch hv fun later => ?_
  rw [latchIn_starts (not_atomicSection send sample) idle low]
  rfl

/-- Settles O37: the atomic section is the first test of the edge's rule. -/
theorem latchRiseWaitsInTheAtomicSection : Obligations.LatchRiseWaitsInTheAtomicSection := by
  intro s hv low atomic
  refine does_latch hv fun later => ?_
  rw [latchIn_rise low, latchRise_atomic (s := seeLatch true s) ((atomicSection_iff s).2 atomic)]
  rfl

/-- What HOSTPOLLED on an abort does to PS. -/
theorem hostPolledOnAbort_ps (s : State) :
    (hostPolledOnAbort s).ps = if s.cfg.recordOnAbort = true then (hostPolled s).ps else s.ps := by
  rw [hostPolledOnAbort]
  split <;> rfl

/-- HOSTPOLLED on an abort is counted where it is raised (log 8). -/
theorem hostPolledOnAbort_hist (s : State) :
    (hostPolledOnAbort s).hist = { s.hist with hostPolls := s.hist.hostPolls + s.cfg.recordOnAbort.toNat } := by
  obtain ⟨record, h⟩ | ⟨record, h⟩ := hostPolledOnAbort_cases s <;> rw [h, record] <;> rfl

/-- Settles O38: the edge is HOSTPOLLED on an abort, which leaves SL alone, and then START, which leaves PS alone. -/
theorem latchRiseAbortsAndRestarts : Obligations.LatchRiseAbortsAndRestarts := by
  intro s hv shift low send sample
  refine does_latch hv fun later => ?_
  rw [latchIn_aborts (not_atomicSection send sample) shift low]
  refine ⟨?_, ?_, ?_, ?_, ?_, ?_, ?_⟩
  · simp [startTransaction]
  · exact hostPolledOnAbort_ps _
  · exact congrArg Hist.hostPolls (hostPolledOnAbort_hist _)
  all_goals simp

/-- Settles O39: the fall ends the wait for it, and has no rule elsewhere. -/
theorem latchFallBeginsTheShift : Obligations.LatchFallBeginsTheShift := by
  intro s hv high
  refine does_latch hv fun later => ?_
  rw [latchIn_fall high]
  split_ifs with waiting
  · rw [latchFall_waiting (s := seeLatch false s) waiting]
    rfl
  · rw [latchFall_elsewhere (s := seeLatch false s) waiting]
    rfl

/-- The service of a pending latch comes before the decode step and the acceptance of a command. -/
theorem blockStep_serves {s : State} (h : serviceEnabled s = true) : blockStep s = .next (startTransaction s) :=
  if_pos h

/-- Settles O40: the service is the first test of the block's step, and it is START. -/
theorem pendingLatchIsServedFirst : Obligations.PendingLatchIsServedFirst := by
  intro s hv pending idle send sample
  have enabled : serviceEnabled s = true := by simp [serviceEnabled, pending, idle, not_atomicSection send sample]
  exact does_block hv (blockStep_serves enabled) fun later => rfl

/-! ### The clock -/

/-- A falling edge of the clock is an event (43_slave_emulator R184). -/
theorem clkIn_fall {s : State} (high : s.sl.clkLvl = true) : clkIn false s = clkFall (seeClk false s) := by
  simp [clkIn, high]

/-- A rising edge of the clock has no rule (43_slave_emulator R192). -/
theorem clkIn_true (s : State) : clkIn true s = seeClk true s := by simp [clkIn]

/-- A clock at the level that SL last saw is no event (43_slave_emulator R184). -/
theorem clkIn_same (s : State) : clkIn s.sl.clkLvl s = seeClk s.sl.clkLvl s := if_pos rfl

theorem clkFall_last {s : State} (hp : s.sl.phase = .shift) (last : s.sl.pos = 0) :
    clkFall s = hostPolled (handlerReturn .completed s) := by
  simp [clkFall, hp, last]

theorem clkFall_next {s : State} (hp : s.sl.phase = .shift) (more : s.sl.pos ≠ 0) :
    clkFall s =
      { s with
        sl := { s.sl with
          pos := s.sl.pos - 1
          dataOut := s.sl.sh.getLsbD (s.sl.pos - 1).val
          wdt := s.cfg.wdtTicks } } := by
  simp [clkFall, hp, more]

theorem clkFall_elsewhere {s : State} (hp : s.sl.phase ≠ .shift) : clkFall s = s := by
  cases h : s.sl.phase with
  | shift => exact absurd h hp
  | _ => simp [clkFall, h]

/-- The falling edge that presents bit `p` (43_slave_emulator R190). -/
theorem clkIn_presents {s : State} {p : Nat} (hp : s.sl.phase = .shift) (high : s.sl.clkLvl = true)
    (hpos : s.sl.pos.val = p + 1) :
    ∃ q : Fin 8, q.val = p ∧
      clkIn false s =
        { seeClk false s with
          sl := { s.sl with
            pos := q, dataOut := s.sl.sh.getLsbD p, wdt := s.cfg.wdtTicks, clkLvl := false } } := by
  have more : s.sl.pos ≠ 0 := by rw [Ne, Fin.ext_iff, hpos]; exact Nat.succ_ne_zero p
  have next : (s.sl.pos - 1).val = p := by rw [Fin.val_sub_one_of_ne_zero more, hpos, Nat.add_sub_cancel]
  refine ⟨s.sl.pos - 1, next, ?_⟩
  rw [clkIn_fall high, clkFall_next (s := seeClk false s) hp more, ← next]
  rfl

/-- The 8th falling edge (43_slave_emulator R190). -/
theorem clkIn_completes {s : State} (hp : s.sl.phase = .shift) (high : s.sl.clkLvl = true)
    (last : s.sl.pos.val = 0) : clkIn false s = hostPolled (handlerReturn .completed (seeClk false s)) := by
  rw [clkIn_fall high, clkFall_last (s := seeClk false s) hp (Fin.ext last)]

/-- Settles O41: the two branches of the clock's rule. -/
theorem clockFallShiftsOrCompletes : Obligations.ClockFallShiftsOrCompletes := by
  refine fun s hv shift high => ⟨fun p hpos => ?_, fun last => ?_⟩ <;> refine does_clk hv fun later => ?_
  · obtain ⟨q, hq, e⟩ := clkIn_presents shift high hpos
    rw [e]
    exact ⟨hq, rfl⟩
  · rw [clkIn_completes shift high last]
    rfl

/-- Outside SL_SHIFT a move of the clock is only seen (43_slave_emulator R191). -/
theorem clkIn_elsewhere (v : Bool) {s : State} (hp : s.sl.phase ≠ .shift) : clkIn v s = seeClk v s := by
  rcases clkIn_cases v s with ⟨h, -⟩ | ⟨-, -, -, shift, -⟩ | ⟨-, -, -, shift, -⟩
  · exact h
  all_goals exact absurd shift hp

/-- Settles O42: such a setting is seen, and has no rule. -/
theorem ignoredEdgesChangeOnlyTheLevel : Obligations.IgnoredEdgesChangeOnlyTheLevel := by
  refine ⟨fun s hv outside => does_clk hv fun later => ?_, fun s hv => does_clk hv fun later => ?_,
    fun s hv => ⟨does_latch hv fun later => ?_, does_clk hv fun later => ?_⟩⟩
  · rw [clkIn_elsewhere false outside]
    rfl
  · rw [clkIn_true]
    rfl
  · rw [latchIn_same]
    exact ⟨rfl, rfl, rfl⟩
  · rw [clkIn_same]
    exact ⟨rfl, rfl, rfl⟩

/-! ### The watchdog -/

theorem slTick_counts {s : State} (active : s.sl.phase ≠ .idle) (more : 1 < s.sl.wdt) :
    slTick s = { s with sl := { s.sl with wdt := s.sl.wdt - 1 } } := by
  simp [slTick, active, more]

theorem slTick_expires {s : State} (active : s.sl.phase ≠ .idle) (last : s.sl.wdt = 1) :
    slTick s = hostPolledOnAbort (handlerReturn .clockTimeout { s with sl := { s.sl with wdt := 0 } }) := by
  simp [slTick, active, last]

/-- A TICK that is not the watchdog's last counts it down (43_slave_emulator R193). -/
theorem tick_counts_down {s : State} (active : s.sl.phase ≠ .idle) (more : 1 < s.sl.wdt) :
    (tick s).sl = { s.sl with wdt := s.sl.wdt - 1 } ∧ (tick s).hist = s.hist := by
  rw [tick, slTick_counts (by simpa using active) (by simpa using more)]
  simp

/-- PS's registers when SL's part of a TICK begins. -/
theorem psTick_utTick_ps (s : State) : (psTick (utTick s)).ps = countedTick s.cfg s.ps := by
  rw [psTick_ps, utTick_cfg, utTick_ps]

/-- The watchdog's last TICK ends the transaction, and its HOSTPOLLED sees elapsed as counted (43_slave_emulator
R194). -/
theorem tick_expires {s : State} (active : s.sl.phase ≠ .idle) (last : s.sl.wdt = 1) :
    (tick s).sl = { s.sl with wdt := 0, dataOut := s.cfg.dataIdle, phase := .idle } ∧
    (tick s).hist = ⟨some .clockTimeout, s.hist.hostPolls + s.cfg.recordOnAbort.toNat⟩ ∧
    (tick s).ps =
      if s.cfg.recordOnAbort = true then (hostPolled { s with ps := countedTick s.cfg s.ps }).ps
      else countedTick s.cfg s.ps := by
  rw [tick, slTick_expires (by simpa using active) (by simpa using last)]
  refine ⟨?_, ?_, ?_⟩
  · simp [handlerReturn]
  · simp [hostPolledOnAbort_hist]
  · rw [hostPolledOnAbort_ps, hostPolled_ps_congr (t := { s with ps := countedTick s.cfg s.ps })] <;>
      simp [psTick_utTick_ps]

/-- Settles O43: the three cases of SL's part of a TICK, and the frame of a TICK. -/
theorem watchdogEndsAStalledTransaction : Obligations.WatchdogEndsAStalledTransaction := by
  intro s hv counted
  refine does_tick hv fun later => ⟨fun idle => ?_, tick_counts_down, tick_expires, tick_rs s, tick_port s⟩
  simp [tick_idle idle]

end Sys2Proof.Machine
end

section
/-! PROOFS. The invariant: RESET establishes it, and every move keeps it (10_state R20, 20_memory R63 and R75,
40_transceiver R118, 42_poll_scheduler R170, 43_slave_emulator R199). -/

namespace Sys2Proof.Machine

/-! ### PS -/

/-- HOSTPOLLED leaves PS's registers within their width: a computed threshold is below elapsed
(42_poll_scheduler R170). -/
theorem hostPolled_inRange {s : State} (hv : s.cfg.valid = true) (h : SchedulerInRange s) :
    SchedulerInRange (hostPolled s) := by
  obtain ⟨elapsed, threshold⟩ := h
  obtain ⟨-, -, -, default, -⟩ := (valid_iff s.cfg).1 hv
  refine ⟨Nat.two_pow_pos _, ?_⟩
  rw [hostPolled_cfg]
  obtain e | e | ⟨-, e⟩ := hostPolled_threshold_cases s <;> rw [e]
  · exact threshold
  · exact default
  · omega

theorem hostPolledOnAbort_inRange {s : State} (hv : s.cfg.valid = true) (h : SchedulerInRange s) :
    SchedulerInRange (hostPolledOnAbort s) := by
  obtain ⟨-, e⟩ | ⟨-, e⟩ := hostPolledOnAbort_cases s <;> rw [e]
  · exact hostPolled_inRange hv h
  · exact h

theorem psTick_inRange {s : State} (h : SchedulerInRange s) : SchedulerInRange (psTick s) := by
  obtain ⟨elapsed, threshold⟩ := h
  rw [SchedulerInRange, psTick_cfg, psTick_threshold, psTick_eq_countTicks elapsed]
  exact ⟨Nat.mod_lt _ (Nat.two_pow_pos _), threshold⟩

/-! ### SL -/

/-- A transaction that has just started meets R199, whatever went before. -/
theorem startTransaction_slave {s : State} (hv : s.cfg.valid = true) : SlaveInvariant (startTransaction s) := by
  obtain ⟨-, -, -, -, -, watchdog, -⟩ := (valid_iff s.cfg).1 hv
  refine ⟨?_, fun idle => absurd idle (startTransaction_active s), fun _ => watchdog, le_rfl, by simp⟩
  rw [startTransaction_phase, startTransaction_latchLvl]
  cases s.sl.latchLvl <;> simp

/-- SL has just gone idle: R199 asks for the idle level of the line and the range of wdt. -/
theorem slave_of_idle {s : State} (idle : s.sl.phase = .idle) (line : s.sl.dataOut = s.cfg.dataIdle)
    (range : s.sl.wdt ≤ s.cfg.wdtTicks) : SlaveInvariant s := by
  simp [SlaveInvariant, idle, line, range]

/-- An armed SL_SHIFT meets R199. -/
theorem slave_of_armed_shift {s : State} (hv : s.cfg.valid = true) (shift : s.sl.phase = .shift)
    (armed : s.sl.wdt = s.cfg.wdtTicks) (gate : s.sl.lpend = false) : SlaveInvariant s := by
  obtain ⟨-, -, -, -, -, watchdog, -⟩ := (valid_iff s.cfg).1 hv
  simp [SlaveInvariant, shift, armed, gate, watchdog]

/-- No edge is pending during a transaction. -/
theorem lpend_of_active {s : State} (h : SlaveInvariant s) (active : s.sl.phase ≠ .idle) : s.sl.lpend = false := by
  obtain ⟨-, -, -, -, pending⟩ := h
  exact Bool.eq_false_iff.2 (mt pending active)

/-- SL's part of a TICK keeps R199: the watchdog stays between its bounds, or ends the transaction. -/
theorem slTick_slave {s : State} (h : SlaveInvariant s) : SlaveInvariant (slTick s) := by
  obtain ⟨e, -⟩ | ⟨e, active, more⟩ | ⟨e, -⟩ | ⟨e, -⟩ := slTick_cases s <;> rw [e]
  · exact h
  · obtain ⟨wait, idle, -, range, pending⟩ := h
    exact ⟨wait, idle, fun _ => by simp only; omega, by simp only; omega, pending⟩
  · exact slave_of_idle (by simp) (by simp) (by simp)
  · exact h

/-! ### The parts of the invariant -/

/-- What the invariant says of UT's registers alone. -/
def TransceiverInvariant (s : State) : Prop := LineOwnership s ∧ TransceiverInRange s ∧ PhaseInvariant s

theorem Inv.transceiver {s : State} (inv : Inv s) : TransceiverInvariant s := by
  obtain ⟨-, -, -, -, -, owner, range, phase, -⟩ := inv
  exact ⟨owner, range, phase⟩

/-- From `s` to `t` UT and the port have not moved: what the latch handler and PS and SL in a TICK do. -/
structure KeepsTransaction (s t : State) : Prop where
  cfg : t.cfg = s.cfg
  ut : t.ut = s.ut
  port : t.port = s.port

/-- A step that keeps UT and the port has to restore only what the invariant says of PS, SL and the levels. -/
theorem Inv.of_keepsTransaction {s t : State} (inv : Inv s) (h : KeepsTransaction s t) (lines : LinesAgree t)
    (range : SchedulerInRange t) (slave : SlaveInvariant t) (excluded : AtomicExcludesHandler t) : Inv t := by
  obtain ⟨valid, -, -, -, -, owner, registers, phase, port⟩ := inv
  refine ⟨h.cfg ▸ valid, lines, range, slave, excluded, ?_, ?_, ?_, ?_⟩
  · simpa only [LineOwnership, h.ut] using owner
  · simpa only [TransceiverInRange, h.ut, h.cfg] using registers
  · simpa only [PhaseInvariant, h.ut] using phase
  · simpa only [PortInvariant, h.ut, h.port, h.cfg] using port

/-- From `s` to `t` the handler's registers have not moved, nor what the invariant says of PS and the levels: what
commands, the decode step and UT in a TICK do. The shift byte is not the handler's. -/
structure KeepsHandler (s t : State) : Prop where
  cfg : t.cfg = s.cfg
  sl : ∃ b, t.sl = { s.sl with shiftByte := b }
  elapsed : t.ps.elapsed = s.ps.elapsed
  threshold : t.ps.threshold = s.ps.threshold
  latchIn : t.env.latchIn = s.env.latchIn
  clkIn : t.env.clkIn = s.env.clkIn

/-- A step that keeps the handler has to restore only what the invariant says of UT and the port. -/
theorem Inv.of_keepsHandler {s t : State} (inv : Inv s) (h : KeepsHandler s t) (excluded : AtomicExcludesHandler t)
    (ut : TransceiverInvariant t) (port : PortInvariant t) : Inv t := by
  obtain ⟨valid, lines, range, slave, -⟩ := inv
  obtain ⟨owner, registers, phase⟩ := ut
  obtain ⟨b, sl⟩ := h.sl
  refine ⟨h.cfg ▸ valid, ?_, ?_, ?_, excluded, owner, registers, phase, port⟩
  · simpa only [LinesAgree, sl, h.latchIn, h.clkIn] using lines
  · simpa only [SchedulerInRange, h.elapsed, h.threshold, h.cfg] using range
  · simpa only [SlaveInvariant, sl, h.cfg] using slave

/-! ### RESET -/

/-- The state after RESET meets the invariant, in every environment. -/
theorem resetWith_inv {c : Params} (e : Env) (hv : c.valid = true) : Inv (State.resetWith c e) := by
  obtain ⟨-, -, -, default, -⟩ := (valid_iff c).1 hv
  refine ⟨hv, ⟨rfl, rfl⟩, ⟨Nat.two_pow_pos _, default⟩, slave_of_idle rfl rfl (Nat.zero_le _), fun _ => rfl, ?_, ?_,
    ?_, ?_⟩
  · simp [LineOwnership, State.resetWith]
  · simp [TransceiverInRange, State.resetWith]
  · simp [PhaseInvariant, State.resetWith]
  · simp [PortInvariant, State.resetWith]

/-! ### UT in a TICK -/

/-- UT drives the line low in no phase but the send (20_memory R75). -/
theorem released_of_not_sending {s : State} (owner : LineOwnership s) (hp : s.ut.phase ≠ .send) : s.ut.drive ≠ .low :=
  mt owner hp

/-- A TICK in UT_SEND keeps UT's registers in range, and leaves nothing measured where the sampling begins. -/
theorem sendTick_transceiver {s : State} (hp : s.ut.phase = .send) (h : TransceiverInvariant s) :
    TransceiverInvariant { s with ut := sendTick s.ut } := by
  obtain ⟨-, ⟨left, length, ticks, number, counts, cnt⟩, sending, -⟩ := h
  obtain ⟨started, noTimeout, samples⟩ := sending hp
  by_cases more : 1 < s.ut.segLeft
  · rw [sendTick_counts more]
    have goesOn : 1 ≤ s.ut.segLeft - 1 := Nat.le_sub_one_of_lt more
    refine ⟨fun _ => hp, ⟨(Nat.sub_le _ 1).trans left, length, ticks, number, counts, cnt⟩, fun _ => ?_, ?_⟩
    · exact ⟨goesOn, noTimeout, samples⟩
    · simp [hp]
  · cases segs : s.ut.segs with
    | nil =>
      rw [sendTick_ends (Nat.not_lt.1 more) segs]
      refine ⟨by simp [LineOwnership], ⟨Nat.zero_le _, length, ticks, number, counts, Nat.zero_le _⟩, ?_⟩
      simp [PhaseInvariant, noTimeout, samples, nSamples]
    | cons g rest =>
      rw [sendTick_next (Nat.not_lt.1 more) segs]
      rw [segs] at length ticks
      obtain ⟨⟨first, short⟩, others⟩ := List.forall_mem_cons.1 ticks
      refine ⟨fun _ => hp, ⟨short, Nat.le_of_succ_le length, others, number, counts, cnt⟩, ?_⟩
      simp [PhaseInvariant, hp, noTimeout, samples, first]

/-- A TICK in UT_SAMPLE keeps every count within SMAX, and ends with the list full or by a timeout, never both
(40_transceiver R118). -/
theorem sampleTick_transceiver {s : State} (line : Bool) (hv : s.cfg.valid = true) (hp : s.ut.phase = .sample)
    (h : TransceiverInvariant s) : TransceiverInvariant { s with ut := sampleTick s.cfg line s.ut } := by
  obtain ⟨owner, ⟨left, length, ticks, number, counts, cnt⟩, -, sampling, -⟩ := h
  obtain ⟨noTimeout, short, -⟩ := sampling hp
  have released : s.ut.drive ≠ .low := released_of_not_sending owner (by rw [hp]; decide)
  have owner' {p : Prop} : s.ut.drive = .low → p := fun low => absurd low released
  have pos : 1 ≤ s.cfg.smax := smax_pos hv
  by_cases begins : s.ut.cnt = 0
  · rw [sampleTick_begins begins]
    exact ⟨owner', ⟨left, length, ticks, number, counts, pos⟩, by simp [PhaseInvariant, hp, noTimeout, short]⟩
  · have closed : ∀ n ∈ s.ut.samples ++ [s.ut.cnt], 1 ≤ n ∧ n ≤ s.cfg.smax :=
      List.forall_mem_append.2 ⟨counts, List.forall_mem_singleton.2 ⟨Nat.one_le_iff_ne_zero.2 begins, cnt⟩⟩
    have grown : (s.ut.samples ++ [s.ut.cnt]).length ≤ nSamples := by simpa using short
    by_cases held : line = s.ut.curLevel
    · rw [held]
      by_cases full : s.ut.cnt = s.cfg.smax
      · rw [sampleTick_times_out begins full]
        exact ⟨owner', ⟨left, length, ticks, number, counts, cnt⟩, by simp [PhaseInvariant, short.ne]⟩
      · rw [sampleTick_counts begins full]
        exact ⟨owner', ⟨left, length, ticks, number, counts, by simp only; omega⟩,
          by simp [PhaseInvariant, hp, noTimeout, short]⟩
    · by_cases last : s.ut.samples.length = 128
      · rw [sampleTick_completes begins held last]
        exact ⟨owner', ⟨left, length, ticks, grown, closed, cnt⟩,
          by simp [PhaseInvariant, noTimeout, last, nSamples, respBits]⟩
      · have room : s.ut.samples.length + 1 < nSamples := by simp only [nSamples, respBits] at short ⊢; omega
        rw [sampleTick_closes begins held last]
        exact ⟨owner', ⟨left, length, ticks, grown, closed, pos⟩, by simp [PhaseInvariant, hp, noTimeout, room]⟩

theorem utTick_transceiver {s : State} (inv : Inv s) : TransceiverInvariant (utTick s) := by
  have ⟨valid, _⟩ := inv
  cases hp : s.ut.phase with
  | send => simpa only [utTick, hp] using sendTick_transceiver hp inv.transceiver
  | sample => simpa only [utTick, hp] using sampleTick_transceiver (ubus s) valid hp inv.transceiver
  | idle => rw [utTick_outside (.inl hp)]; exact inv.transceiver
  | decode => rw [utTick_outside (.inr hp)]; exact inv.transceiver

/-- A TICK leaves UT's phase, or takes it from the send to the sampling, or from the sampling to the decode step. -/
theorem utTick_phase_cases (s : State) :
    (utTick s).ut.phase = s.ut.phase ∨ (s.ut.phase = .send ∧ (utTick s).ut.phase = .sample) ∨
    (s.ut.phase = .sample ∧ (utTick s).ut.phase = .decode) := by
  cases hp : s.ut.phase with
  | send =>
    simp only [utTick, hp, sendTick]
    split_ifs
    · simp
    · split <;> simp
  | sample =>
    simp only [utTick, hp, sampleTick]
    split_ifs <;> simp
  | idle => simp [utTick_outside (.inl hp), hp]
  | decode => simp [utTick_outside (.inr hp), hp]

/-- UT's part of a TICK begins no atomic section, and neither begins nor ends a command. -/
theorem utTick_progress (s : State) :
    (atomicSection (utTick s) = true → atomicSection s = true) ∧
    ((utTick s).ut.phase = .idle ↔ s.ut.phase = .idle) := by
  obtain e | ⟨e, e'⟩ | ⟨e, e'⟩ := utTick_phase_cases s
  · simp [atomicSection, e]
  · simp [atomicSection, e, e']
  · simp [atomicSection, e, e']

theorem utTick_inv {s : State} (inv : Inv s) : Inv (utTick s) := by
  have ⟨_, _, _, _, excluded, _, _, _, port⟩ := inv
  obtain ⟨atomic, idle⟩ := utTick_progress s
  have handler : KeepsHandler s (utTick s) :=
    ⟨utTick_cfg s, ⟨s.sl.shiftByte, utTick_sl s⟩, by simp, by simp, by simp, by simp⟩
  refine inv.of_keepsHandler handler ?_ (utTick_transceiver inv) ?_
  · exact fun ha => by simpa using excluded (atomic ha)
  · simpa only [PortInvariant, idle, utTick_op, utTick_port, utTick_cfg] using port

/-! ### A TICK, and the events of the host -/

theorem psTick_inv {s : State} (inv : Inv s) : Inv (psTick s) := by
  have ⟨_, lines, range, slave, excluded, _⟩ := inv
  refine inv.of_keepsTransaction ⟨psTick_cfg s, psTick_ut s, psTick_port s⟩ ?_ (psTick_inRange range) ?_ ?_
  · simpa only [LinesAgree, psTick_sl, psTick_env] using lines
  · simpa only [SlaveInvariant, psTick_sl, psTick_cfg] using slave
  · simpa only [AtomicExcludesHandler, atomicSection, psTick_sl, psTick_ut] using excluded

theorem slTick_inv {s : State} (inv : Inv s) : Inv (slTick s) := by
  have ⟨valid, lines, range, slave, excluded, _⟩ := inv
  have slave' := slTick_slave slave
  obtain ⟨e, -⟩ | ⟨e, -⟩ | ⟨e, -⟩ | ⟨e, -⟩ := slTick_cases s <;> rw [e] at slave' ⊢
  · exact inv
  · exact inv.of_keepsTransaction ⟨rfl, rfl, rfl⟩ lines range slave' excluded
  · refine inv.of_keepsTransaction ⟨by simp, by simp, by simp⟩ ?_ (hostPolledOnAbort_inRange valid range) slave' ?_
    · simpa [LinesAgree] using lines
    · exact fun _ => by simp
  · exact inv

theorem tick_inv {s : State} (inv : Inv s) : Inv (tick s) := slTick_inv (psTick_inv (utTick_inv inv))

/-- START outside the atomic section, whatever the handler did before it to PS and the history. -/
theorem startTransaction_inv {s u : State} (inv : Inv s) (h : KeepsTransaction s u) (lines : LinesAgree u)
    (range : SchedulerInRange u) (ha : atomicSection s = false) : Inv (startTransaction u) := by
  have ⟨valid, _⟩ := inv
  refine inv.of_keepsTransaction ⟨h.cfg, h.ut, h.port⟩ lines range (startTransaction_slave (h.cfg ▸ valid)) ?_
  intro atomic
  rw [atomicSection, startTransaction_ut, h.ut] at atomic
  exact absurd (atomic.symm.trans ha) (by decide)

/-- A latch level that is only seen keeps the invariant, unless SL waits for the latch to fall and it does. -/
theorem seeLatch_inv {s : State} {v : Bool} (inv : Inv s) (wait : s.sl.phase = .waitLatchFall → v = true) :
    Inv (seeLatch v s) := by
  have ⟨_, ⟨_, clk⟩, range, ⟨_, slave⟩, excluded, _⟩ := inv
  exact inv.of_keepsTransaction ⟨rfl, rfl, rfl⟩ ⟨rfl, clk⟩ range ⟨wait, slave⟩ excluded

theorem seeClk_inv {s : State} (v : Bool) (inv : Inv s) : Inv (seeClk v s) := by
  have ⟨_, ⟨latch, _⟩, range, slave, excluded, _⟩ := inv
  exact inv.of_keepsTransaction ⟨rfl, rfl, rfl⟩ ⟨latch, rfl⟩ range slave excluded

theorem latchIn_inv {s : State} (v : Bool) (inv : Inv s) : Inv (latchIn v s) := by
  have ⟨valid, ⟨_, clk⟩, range, slave, excluded, _⟩ := inv
  obtain ⟨e, same⟩ | ⟨e, -, -, ha⟩ | ⟨e, -, -, ha, -⟩ | ⟨e, -, high, -⟩ | ⟨e, -, -, ha, -⟩ | ⟨e, -, -, wait⟩ |
    ⟨e, -, -, elsewhere⟩ := latchIn_cases v s <;> rw [e]
  · obtain ⟨seen, -⟩ := slave
    exact seeLatch_inv inv fun wait => same.trans (seen wait)
  · have idle : s.sl.phase = .idle := excluded ha
    obtain ⟨-, line, -, range', -⟩ := slave
    exact inv.of_keepsTransaction ⟨rfl, rfl, rfl⟩ ⟨rfl, clk⟩ range (slave_of_idle idle (line idle) range') excluded
  · exact startTransaction_inv inv ⟨rfl, rfl, rfl⟩ ⟨rfl, clk⟩ range ha
  · exact seeLatch_inv inv fun _ => high
  · refine startTransaction_inv inv ⟨by simp, by simp, by simp⟩ ?_ (hostPolledOnAbort_inRange valid range) ha
    simpa [LinesAgree] using clk
  · have active : s.sl.phase ≠ .idle := by rw [wait]; decide
    have gate := lpend_of_active slave active
    exact inv.of_keepsTransaction ⟨rfl, rfl, rfl⟩ ⟨rfl, clk⟩ range
      (slave_of_armed_shift valid rfl rfl gate) fun ha => absurd (excluded ha) active
  · exact seeLatch_inv inv fun wait => absurd wait elsewhere

theorem clkIn_inv {s : State} (v : Bool) (inv : Inv s) : Inv (clkIn v s) := by
  have ⟨valid, ⟨latch, _⟩, range, slave, excluded, _⟩ := inv
  obtain ⟨e, -⟩ | ⟨e, -⟩ | ⟨e, -, -, shift, -⟩ := clkIn_cases v s <;> rw [e]
  · exact seeClk_inv v inv
  · obtain ⟨-, -, -, range', -⟩ := slave
    exact inv.of_keepsTransaction ⟨rfl, rfl, rfl⟩ ⟨latch, rfl⟩ (hostPolled_inRange valid range)
      (slave_of_idle rfl rfl range') fun _ => rfl
  · have active : s.sl.phase ≠ .idle := by rw [shift]; decide
    have gate := lpend_of_active slave active
    exact inv.of_keepsTransaction ⟨rfl, rfl, rfl⟩ ⟨latch, rfl⟩ range
      (slave_of_armed_shift valid shift rfl gate) excluded

/-! ### Commands and the decode step -/

theorem bitData_le (b : Bool) : bitData b ≤ 1 := Bool.toNat_le b

theorem bitData_lt (b : Bool) : bitData b < 256 := by have := bitData_le b; omega

theorem schedData_lt (p : Ps) : schedData p < 256 := by
  have ready := bitData_le (p.mode == .ready)
  have overflow := bitData_le p.ovf
  simp only [schedData]
  omega

theorem slaveData_lt (x : Sl) : slaveData x < 256 := by
  have line := bitData_le x.dataOut
  have latch := bitData_le x.latchLvl
  have clk := bitData_le x.clkLvl
  simp only [slaveData]
  omega

/-- From `s` to `t` a command is answered in its accept step: UT can only have released the line, and DATA fits. -/
structure Answers (s t : State) : Prop where
  handler : KeepsHandler s t
  ut : t.ut = s.ut ∨ t.ut = { s.ut with drive := .released }
  port : ∃ r : Response, t.port = ⟨none, some r⟩ ∧ r.data < 2 ^ s.cfg.dataW

/-- A command that writes none of the handler's registers and none of UT's, and then answers. -/
theorem answers_of_respond (r : Status) {d : Nat} {s u : State} (handler : KeepsHandler s u) (ut : u.ut = s.ut)
    (fits : d < 2 ^ s.cfg.dataW) : Answers s (respond r d u) :=
  ⟨⟨handler.cfg, handler.sl, handler.elapsed, handler.threshold, handler.latchIn, handler.clkIn⟩, .inl ut, _, rfl,
    fits⟩

theorem KeepsHandler.refl (s : State) : KeepsHandler s s := ⟨rfl, ⟨s.sl.shiftByte, rfl⟩, rfl, rfl, rfl, rfl⟩

/-- The word that stands in cmd_pending during a transaction (log 18). -/
def transactionWord : UtOp → Word
  | .poll => encode .poll
  | .probe => encode .probe

/-- On a ready port a command begins a transaction of UT, or is answered (40_transceiver R111, R121). -/
theorem exec_ready_cases {i : Instr} {s t : State} (hr : portReady s = true) (range : SchedulerInRange s)
    (h : exec i s = .next t) :
    (∃ op, t = acceptTransaction op (transactionWord op) s) ∨ Answers s t := by
  obtain ⟨elapsed, threshold⟩ := range
  have fits {n : Nat} (hn : n < 256) : n < 2 ^ s.cfg.dataW := hn.trans_le (byte_fits_dataW s.cfg)
  have taken {f : State → State} (hx : ∀ s, exec i s = onPort s f) : t = f s :=
    Host.Outcome.next.inj (h.symm.trans ((hx s).trans (onPort_ready f hr)))
  have read {d : State → Nat} (hd : d s < 2 ^ s.cfg.dataW)
      (hx : ∀ s, exec i s = onPort s fun s => respond .ok (d s) s) : Answers s t :=
    taken hx ▸ answers_of_respond .ok (KeepsHandler.refl s) rfl hd
  cases i with
  | poll => exact .inl ⟨.poll, taken fun _ => rfl⟩
  | probe => exact .inl ⟨.probe, taken fun _ => rfl⟩
  | init =>
    obtain rfl := taken fun _ => rfl
    exact .inr ⟨⟨rfl, ⟨_, rfl⟩, rfl, rfl, rfl, rfl⟩, .inr rfl, _, rfl, fits (by simp)⟩
  | changed =>
    obtain rfl := taken fun _ => rfl
    exact .inr (answers_of_respond _ ⟨rfl, ⟨_, rfl⟩, rfl, rfl, rfl, rfl⟩ rfl (fits (bitData_lt _)))
  | build | setbyte _ =>
    obtain rfl := taken fun _ => rfl
    exact .inr (answers_of_respond _ ⟨rfl, ⟨_, rfl⟩, rfl, rfl, rfl, rfl⟩ rfl (fits (by simp)))
  | maypoll =>
    obtain rfl := taken fun _ => rfl
    split_ifs
    all_goals exact .inr (answers_of_respond _ ⟨rfl, ⟨_, rfl⟩, rfl, rfl, rfl, rfl⟩ rfl (fits (by simp)))
  | rdbuilt k | rdsent k | rdbyte => exact .inr (read (fits (BitVec.isLt _)) fun _ => rfl)
  | rdthr => exact .inr (read (threshold.trans_le (elapsed_fits_dataW _)) fun _ => rfl)
  | rdelapsed => exact .inr (read (elapsed.trans_le (elapsed_fits_dataW _)) fun _ => rfl)
  | rdsched => exact .inr (read (fits (schedData_lt _)) fun _ => rfl)
  | rdslv => exact .inr (read (fits (slaveData_lt _)) fun _ => rfl)

/-- Where UT is idle with the line released and the port shows an answer, UT's registers only have to be in range. -/
theorem Inv.of_answered {s t : State} (inv : Inv s) (handler : KeepsHandler s t) (idle : t.ut.phase = .idle)
    (released : t.ut.drive ≠ .low) (range : TransceiverInRange t)
    (port : ∃ r : Response, t.port = ⟨none, some r⟩ ∧ r.data < 2 ^ s.cfg.dataW) : Inv t := by
  obtain ⟨r, port, fits⟩ := port
  refine inv.of_keepsHandler handler ?_ ⟨fun low => absurd low released, range, ?_⟩ ⟨?_, ?_⟩
  · simp [AtomicExcludesHandler, atomicSection, idle]
  · simp [PhaseInvariant, idle]
  · simp [idle, port]
  · simpa [port, handler.cfg] using fits

theorem Answers.inv {s t : State} (h : Answers s t) (idle : s.ut.phase = .idle) (inv : Inv s) : Inv t := by
  obtain ⟨owner, range, -⟩ := inv.transceiver
  have released : s.ut.drive ≠ .low := released_of_not_sending owner (by rw [idle]; decide)
  have range' : TransceiverInRange t := by
    obtain e | e := h.ut <;> simpa only [TransceiverInRange, e, h.handler.cfg] using range
  obtain e | e := h.ut
  · exact inv.of_answered h.handler (by rw [e, idle]) (by rwa [e]) range' h.port
  · exact inv.of_answered h.handler (by rw [e, idle]) (by simp [e]) range' h.port

/-- A transaction begins with the whole waveform of the frame to come, and its own word on the port. -/
theorem acceptTransaction_inv (op : UtOp) {s : State} (hr : portReady s = true) (inv : Inv s) :
    Inv (acceptTransaction op (transactionWord op) s) := by
  have ⟨valid, _⟩ := inv
  obtain ⟨idle, -⟩ := (portReady_iff s).1 hr
  obtain ⟨g, rest, hg, e⟩ := acceptTransaction_eq op (transactionWord op) s
  have ticks := frameSegs_ticks valid s.cfg.cmdFrame s.cfg.cmdLen
  have length := frameSegs_length s.cfg s.cfg.cmdFrame s.cfg.cmdLen
  rw [hg] at ticks length
  obtain ⟨⟨first, short⟩, others⟩ := List.forall_mem_cons.1 ticks
  rw [e]
  refine inv.of_keepsHandler ⟨rfl, ⟨_, rfl⟩, rfl, rfl, rfl, rfl⟩ (fun _ => idle) ⟨fun _ => rfl, ?_, ?_⟩ ⟨?_, ?_⟩
  · exact ⟨short, Nat.le_of_succ_le length.le, others, by simp, by simp, Nat.zero_le _⟩
  · simp [PhaseInvariant, first]
  · cases op <;> rfl
  · simp

/-- The decode step answers 0 or 1 (40_transceiver R119, R121). -/
theorem utDecode_port (s : State) : ∃ r : Response, (utDecode s).port = ⟨none, some r⟩ ∧ r.data < 2 ^ s.cfg.dataW := by
  refine (?_ : ∃ r : Response, (utDecode s).port = ⟨none, some r⟩ ∧ r.data < 256).imp fun r => And.imp_right ?_
  · cases hv : decodeVerdict s with
    | error e =>
      obtain ⟨-, port⟩ := utDecode_of_error hv
      exact ⟨_, port, by split <;> simp⟩
    | ok r =>
      obtain ⟨-, port⟩ := utDecode_of_ok hv
      exact ⟨_, port, by split <;> simp⟩
  · exact fun small => small.trans_le (byte_fits_dataW s.cfg)

theorem utDecode_inv {s : State} (hd : decodeEnabled s = true) (inv : Inv s) : Inv (utDecode s) := by
  obtain ⟨owner, ⟨left, length, ticks, -⟩, -⟩ := inv.transceiver
  obtain ⟨phase, -⟩ : s.ut.phase = .decode ∧ gateOpen s = true := by simpa [decodeEnabled] using hd
  obtain ⟨cfg, -⟩ := answerTransaction_frame s.ut.op (decodeVerdict s) s
  have cfg : (utDecode s).cfg = s.cfg := cfg
  have handler : KeepsHandler s (utDecode s) :=
    ⟨cfg, ⟨s.sl.shiftByte, utDecode_sl s⟩, by rw [utDecode_ps], by rw [utDecode_ps], by simp, by simp⟩
  refine inv.of_answered handler ?_ ?_ ?_ (utDecode_port s)
  · rw [utDecode_ut]
  · rw [utDecode_ut]
    exact released_of_not_sending owner (by rw [phase]; decide)
  · rw [TransceiverInRange, utDecode_ut, cfg]
    exact ⟨left, length, ticks, by simp, by simp, Nat.zero_le _⟩

/-- On a ready port every command keeps the invariant. -/
theorem exec_inv {i : Instr} {s t : State} (hr : portReady s = true) (h : exec i s = .next t) (inv : Inv s) :
    Inv t := by
  have ⟨_, _, range, _⟩ := inv
  obtain ⟨-, -, idle, -⟩ := (portReady_iff s).1 hr
  obtain ⟨op, rfl⟩ | answers := exec_ready_cases hr range h
  · exact acceptTransaction_inv op hr inv
  · exact answers.inv idle inv

/-! ### Every move, and every step -/

theorem blockStep_inv {s t : State} (h : blockStep s = .next t) (inv : Inv s) : Inv t := by
  have ⟨_, lines, range, _⟩ := inv
  obtain ⟨hs, rfl⟩ | ⟨-, hd, rfl⟩ | ⟨-, -, -, rfl⟩ | ⟨w, rest, i, hr, -, -, hx⟩ | ⟨w, rest, e, hr, -, -, rfl⟩ :=
    blockStep_cases h
  · obtain ⟨⟨-, outside⟩, -⟩ : (s.sl.lpend = true ∧ atomicSection s = false) ∧ s.sl.phase = .idle := by
      simpa [serviceEnabled] using hs
    exact startTransaction_inv inv ⟨rfl, rfl, rfl⟩ lines range outside
  · exact utDecode_inv hd inv
  · exact inv
  · exact exec_inv (s := { s with env := { s.env with cmds := rest } }) hr hx inv
  · obtain ⟨-, -, idle, -⟩ := (portReady_iff s).1 hr
    exact (answers_of_respond _ ⟨rfl, ⟨_, rfl⟩, rfl, rfl, rfl, rfl⟩ rfl (Nat.two_pow_pos _)).inv idle inv

/-- Every move keeps the invariant. What the environment has yet to do takes no part in it. -/
theorem perform_inv {m : Move} {s t : State} (h : perform m s = .next t) (inv : Inv s) : Inv t := by
  cases m with
  | tick => cases h; exact tick_inv inv
  | peri v => cases h; exact inv
  | latch v => cases h; exact latchIn_inv v inv
  | clk v => cases h; exact clkIn_inv v inv
  | command w => cases h; exact inv
  | block => exact blockStep_inv h inv
  | reset =>
    cases h
    obtain ⟨valid, -⟩ := inv
    exact resetWith_inv s.env valid

/-- Settles O51: a step performs one move, and every move keeps the invariant. -/
theorem everyStepKeepsTheInvariant : Obligations.EveryStepKeepsTheInvariant := by
  intro s t inv h
  obtain ⟨m, -, hp⟩ := step_performs h
  exact perform_inv (s := s.withMoves s.env.moves.tail) hp inv

end Sys2Proof.Machine
end

section
/-! PROOFS. Whole transactions: the bits that a transaction serves, and the TICKs that it can last
(43_slave_emulator R195 and R196, 30_encoding R94 and R95). -/

namespace Sys2Proof.Machine

/-! ### TICKs between the edges -/

/-- While the watchdog does not expire, `n` TICKs only count it down. -/
theorem iterate_tick_active (n : Nat) {s : State} (active : s.sl.phase ≠ .idle) (armed : n < s.sl.wdt) :
    (tick^[n] s).sl = { s.sl with wdt := s.sl.wdt - n } ∧ (tick^[n] s).hist = s.hist := by
  induction n with
  | zero => exact ⟨rfl, rfl⟩
  | succ n ih =>
    obtain ⟨sl, hist⟩ := ih (by omega)
    have active' : (tick^[n] s).sl.phase ≠ .idle := by rwa [sl]
    have more : 1 < (tick^[n] s).sl.wdt := by rw [sl]; simp only; omega
    obtain ⟨sl', hist'⟩ := tick_counts_down active' more
    rw [Function.iterate_succ_apply']
    exact ⟨by rw [sl', sl, Nat.sub_sub], hist'.trans hist⟩

/-- While SL is idle, TICKs leave it and the history alone. -/
theorem iterate_tick_idle (n : Nat) {s : State} (idle : s.sl.phase = .idle) :
    (tick^[n] s).sl = s.sl ∧ (tick^[n] s).hist = s.hist := by
  induction n with
  | zero => exact ⟨rfl, rfl⟩
  | succ n ih =>
    obtain ⟨sl, hist⟩ := ih
    rw [Function.iterate_succ_apply', tick_idle (by rwa [sl])]
    simp [sl, hist]

@[simp] theorem iterate_tick_cfg (n : Nat) (s : State) : (tick^[n] s).cfg = s.cfg := iterate_tick_keeps tick_cfg n s

@[simp] theorem latchIn_cfg (v : Bool) (s : State) : (latchIn v s).cfg = s.cfg := by
  rcases latchIn_cases v s with ⟨h, -⟩ | ⟨h, -⟩ | ⟨h, -⟩ | ⟨h, -⟩ | ⟨h, -⟩ | ⟨h, -⟩ | ⟨h, -⟩ <;> simp [h]
@[simp] theorem clkIn_cfg (v : Bool) (s : State) : (clkIn v s).cfg = s.cfg := by
  rcases clkIn_cases v s with ⟨h, -⟩ | ⟨h, -⟩ | ⟨h, -⟩ <;> simp [h]

/-- A move, and TICKs after it. -/
theorem leads_move_ticks {m : Move} {s r : State} (n : Nat) (hp : perform m s = .next r) (hs : s.cfg.valid = true)
    (hr : r.cfg.valid = true) : Leads (m :: List.replicate n .tick) s ((tick^[n] r).withMoves []) :=
  (leads_cons_iff hs).2 ⟨r, hp, leads_replicate_tick n hr⟩

/-! ### The pulses of the latch and the clock -/

/-- The state after a latch pulse, with `a` TICKs while the latch is high and `b` after it. -/
def afterLatchPulse (a b : Nat) (s : State) : State := tick^[b] (latchIn false (tick^[a] (latchIn true s)))

/-- The state after a clock pulse, with `a` TICKs while the clock is low and `b` after it. -/
def afterPulse (a b : Nat) (s : State) : State := tick^[b] (clkIn true (tick^[a] (clkIn false s)))

theorem leads_latchPulse (a b : Nat) {s : State} (hv : s.cfg.valid = true) :
    Leads (latchPulseMoves a b) s ((afterLatchPulse a b s).withMoves []) := by
  have rise := leads_move_ticks (m := .latch true) a rfl hv ((latchIn_cfg true s).symm ▸ hv)
  have fall := leads_move_ticks (m := .latch false) (s := tick^[a] (latchIn true s)) b rfl (by simpa using hv)
    (by simpa using hv)
  exact leads_append rise fall

theorem leads_pulse (a b : Nat) {s : State} (hv : s.cfg.valid = true) :
    Leads (pulseMoves [(a, b)]) s ((afterPulse a b s).withMoves []) := by
  have fall := leads_move_ticks (m := .clk false) a rfl hv ((clkIn_cfg false s).symm ▸ hv)
  have rise := leads_move_ticks (m := .clk true) (s := tick^[a] (clkIn false s)) b rfl (by simpa using hv)
    (by simpa using hv)
  rw [pulseMoves, pulseMoves, List.append_nil]
  exact leads_append fall rise

theorem pulseMoves_cons (p : Nat × Nat) (ps : List (Nat × Nat)) :
    pulseMoves (p :: ps) = pulseMoves [p] ++ pulseMoves ps := by
  simp [pulseMoves]

/-! ### The bits on the line -/

/-- In `t` the transaction that took its byte in `s` is in SL_SHIFT with bit `p` of the byte on the line, the clock at
`clk` and `left` ticks on the watchdog, and no transaction has ended since. -/
structure Serving (s : State) (p : Nat) (clk : Bool) (left : Nat) (t : State) : Prop where
  cfg : t.cfg = s.cfg
  hist : t.hist = s.hist
  phase : t.sl.phase = .shift
  clk : t.sl.clkLvl = clk
  left : t.sl.wdt = left
  sh : t.sl.sh = s.sl.shiftByte
  pos : t.sl.pos.val = p
  bit : t.sl.dataOut = s.sl.shiftByte.getLsbD p

/-- In `t` the transaction that took its byte in `s` has completed. -/
structure Served (s t : State) : Prop where
  idle : t.sl.phase = .idle
  line : t.sl.dataOut = s.cfg.dataIdle
  hist : t.hist = ⟨some .completed, s.hist.hostPolls + 1⟩

theorem Serving.ticks {s t : State} {p left : Nat} {clk : Bool} (h : Serving s p clk left t) (n : Nat)
    (armed : n < left) : Serving s p clk (left - n) (tick^[n] t) := by
  obtain ⟨cfg, hist, phase, clk, left, sh, pos, bit⟩ := h
  obtain ⟨sl', hist'⟩ := iterate_tick_active n (by rw [phase]; decide) (left.symm ▸ armed)
  constructor <;> simp only [iterate_tick_cfg, sl', hist']
  · exact cfg
  · exact hist
  · exact phase
  · exact clk
  · rw [left]
  · exact sh
  · exact pos
  · exact bit

theorem Served.ticks {s t : State} (h : Served s t) (n : Nat) : Served s (tick^[n] t) := by
  obtain ⟨sl', hist'⟩ := iterate_tick_idle n h.idle
  constructor <;> simp only [sl', hist']
  · exact h.idle
  · exact h.line
  · exact h.hist

/-- A rising edge of the clock is only seen. -/
theorem Serving.rise {s t : State} {p left : Nat} {clk : Bool} (h : Serving s p clk left t) :
    Serving s p true left (clkIn true t) := by
  rw [clkIn_true]
  exact ⟨h.cfg, h.hist, h.phase, rfl, h.left, h.sh, h.pos, h.bit⟩

theorem Served.rise {s t : State} (h : Served s t) : Served s (clkIn true t) := by
  rw [clkIn_true]
  exact ⟨h.idle, h.line, h.hist⟩

/-- A falling edge puts the next bit on the line and rearms the watchdog. -/
theorem Serving.fall {s t : State} {p left : Nat} (h : Serving s (p + 1) true left t) :
    Serving s p false s.cfg.wdtTicks (clkIn false t) := by
  obtain ⟨q, hq, e⟩ := clkIn_presents h.phase h.clk h.pos
  rw [e]
  exact ⟨h.cfg, h.hist, h.phase, rfl, congrArg Params.wdtTicks h.cfg, h.sh, hq, congrArg (·.getLsbD p) h.sh⟩

/-- The falling edge after bit 0 completes the transaction. -/
theorem Serving.last_fall {s t : State} {left : Nat} (h : Serving s 0 true left t) : Served s (clkIn false t) := by
  rw [clkIn_completes h.phase h.clk h.pos]
  have counted : t.hist.hostPolls + 1 = s.hist.hostPolls + 1 := by rw [h.hist]
  exact ⟨rfl, congrArg Params.dataIdle h.cfg, congrArg (Hist.mk (some .completed)) counted⟩

/-- A clock pulse puts the next bit on the line (30_encoding R95). -/
theorem Serving.pulse {s t : State} {p left a b : Nat} (h : Serving s (p + 1) true left t)
    (hab : a + b < s.cfg.wdtTicks) : Serving s p true (s.cfg.wdtTicks - a - b) (afterPulse a b t) :=
  ((h.fall.ticks a (by omega)).rise).ticks b (by omega)

/-- The 8th clock pulse completes the transaction. -/
theorem Serving.last_pulse {s t : State} {left : Nat} (h : Serving s 0 true left t) (a b : Nat) :
    Served s (afterPulse a b t) :=
  (h.last_fall.ticks a).rise.ticks b

/-- After the latch pulse the most significant bit is on the line (30_encoding R94). -/
theorem afterLatchPulse_serving {s : State} {a b : Nat} (outside : atomicSection s = false)
    (idle : s.sl.phase = .idle) (low : s.sl.latchLvl = false) (clk : s.sl.clkLvl = true)
    (ha : a < s.cfg.wdtTicks) (hb : b < s.cfg.wdtTicks) :
    Serving s 7 true (s.cfg.wdtTicks - b) (afterLatchPulse a b s) := by
  have rise := latchIn_starts outside idle low
  obtain ⟨sl, hist⟩ := iterate_tick_active a (startTransaction_active (seeLatch true s)) ha
  have cfg : (tick^[a] (startTransaction (seeLatch true s))).cfg = s.cfg := iterate_tick_cfg a _
  rw [afterLatchPulse, rise]
  generalize tick^[a] (startTransaction (seeLatch true s)) = t at sl hist cfg
  have waiting : t.sl.phase = .waitLatchFall := by rw [sl]; rfl
  have begun : Serving s 7 true s.cfg.wdtTicks (latchIn false t) := by
    rw [latchIn_fall (by rw [sl]; rfl), latchFall_waiting (s := seeLatch false t) waiting]
    exact ⟨cfg, hist, rfl, by simp [sl, clk], congrArg Params.wdtTicks cfg, by simp [sl], by simp [sl], by simp [sl]⟩
  exact begun.ticks b hb

/-- A transaction over clock pulses: each puts the next bit on the line, and the one after bit 0 completes it. -/
theorem serving_pulses {s t : State} {p left : Nat} {pulses : List (Nat × Nat)} (h : Serving s p true left t)
    (hv : s.cfg.valid = true) (short : ∀ q ∈ pulses, q.1 + q.2 < s.cfg.wdtTicks) (few : pulses.length ≤ p + 1) :
    ∃ u, Leads (pulseMoves pulses) t u ∧
      (pulses.length ≤ p → ∃ left', Serving s (p - pulses.length) true left' u) ∧
      (pulses.length = p + 1 → Served s u) := by
  induction pulses generalizing p left t with
  | nil =>
    obtain ⟨cfg, hist, phase, clk, left, sh, pos, bit⟩ := h
    exact ⟨_, leads_nil t, fun _ => ⟨_, cfg, hist, phase, clk, left, sh, pos, bit⟩, fun none => by simp at none⟩
  | cons q pulses ih =>
    obtain ⟨short, rest⟩ := List.forall_mem_cons.1 short
    have first := leads_pulse q.1 q.2 (h.cfg ▸ hv : t.cfg.valid = true)
    rw [pulseMoves_cons]
    cases p with
    | zero =>
      obtain rfl : pulses = [] := by simpa using few
      obtain ⟨idle, line, hist⟩ := h.last_pulse q.1 q.2
      refine ⟨_, leads_append first (leads_nil _), fun none => by simp at none, fun _ => ⟨idle, line, hist⟩⟩
    | succ p =>
      obtain ⟨u, leads, more, done⟩ := ih (h.pulse short) rest (by simpa using few)
      refine ⟨u, leads_append first leads, fun le => ?_, fun eq => done (by simpa using eq)⟩
      simpa using more (by simpa using le)

/-- Settles O44: the latch pulse puts bit 7 on the line, and each clock pulse the next, until the 8th completes. -/
theorem transactionServesTheByteMsbFirst : Obligations.TransactionServesTheByteMsbFirst := by
  intro s a b pulses inv idle send sample low clk ha hb short few
  obtain ⟨hv, -⟩ := inv
  have outside := not_atomicSection send sample
  constructor
  · refine ⟨_, (leads_cons_iff hv).2 ⟨_, rfl, leads_nil _⟩, ?_, ?_⟩ <;> rw [latchIn_starts outside idle low] <;> rfl
  · obtain ⟨t, leads, during, done⟩ :=
      serving_pulses (afterLatchPulse_serving outside idle low clk ha hb) hv short few
    refine ⟨t, leads_append (leads_latchPulse a b hv) leads, fun le => ?_, fun eq => ?_⟩
    · obtain ⟨_, serving⟩ := during le
      exact ⟨serving.phase, serving.bit, serving.hist⟩
    · obtain ⟨idle, line, hist⟩ := done eq
      exact ⟨idle, line, hist⟩

/-! ### The bound on a transaction -/

/-- How many edges that rearm the watchdog can still come in the transaction in progress: the fall of the latch and
seven of the clock while SL waits for the latch, and `pos` of the clock in SL_SHIFT. -/
def rearmsLeft (x : Sl) : Nat :=
  match x.phase with
  | .idle => 0
  | .waitLatchFall => 8
  | .shift => x.pos.val

/-- The most TICKs that the transaction in progress can still last. -/
def ticksLeft (s : State) : Nat := s.sl.wdt + rearmsLeft s.sl * s.cfg.wdtTicks

theorem rearmsLeft_waiting {x : Sl} (hp : x.phase = .waitLatchFall) : rearmsLeft x = 8 := by simp [rearmsLeft, hp]

theorem rearmsLeft_shift {x : Sl} (hp : x.phase = .shift) : rearmsLeft x = x.pos.val := by simp [rearmsLeft, hp]

theorem rearmsLeft_le (x : Sl) : rearmsLeft x ≤ 8 := by
  simp only [rearmsLeft]
  split <;> omega

/-- A transaction has a TICK left. -/
theorem ticksLeft_pos {s : State} (slave : SlaveInvariant s) (active : s.sl.phase ≠ .idle) : 1 ≤ ticksLeft s := by
  obtain ⟨-, -, armed, -⟩ := slave
  exact Nat.le_add_right_of_le (armed active)

/-- Nine watchdogs bound every transaction. -/
theorem ticksLeft_le {s : State} (slave : SlaveInvariant s) : ticksLeft s ≤ 9 * s.cfg.wdtTicks := by
  obtain ⟨-, -, -, range, -⟩ := slave
  have rearms : rearmsLeft s.sl * s.cfg.wdtTicks ≤ 8 * s.cfg.wdtTicks := Nat.mul_le_mul_right _ (rearmsLeft_le s.sl)
  rw [ticksLeft]
  omega

/-- A TICK uses up one TICK of the transaction, or ends it. -/
theorem tick_ticksLeft {s : State} (slave : SlaveInvariant s) (active : s.sl.phase ≠ .idle) :
    (tick s).sl.phase = .idle ∨ ticksLeft (tick s) + 1 ≤ ticksLeft s := by
  obtain ⟨-, -, armed, -⟩ := slave
  have armed := armed active
  by_cases last : s.sl.wdt = 1
  · obtain ⟨sl, -⟩ := tick_expires active last
    exact .inl (by rw [sl])
  · obtain ⟨sl, -⟩ := tick_counts_down active (by omega)
    have rearms : rearmsLeft (tick s).sl = rearmsLeft s.sl := by rw [sl]; rfl
    right
    rw [ticksLeft, ticksLeft, rearms, tick_cfg, sl]
    simp only
    omega

/-- Of the moves of the latch that are no rising edge, only the awaited fall rearms the watchdog. -/
theorem latchIn_ticksLeft {v : Bool} {s : State} (noRise : v = true → s.sl.latchLvl = true) :
    ticksLeft (latchIn v s) ≤ ticksLeft s := by
  have rises {p : Prop} (low : s.sl.latchLvl = false) (high : v = true) : p :=
    absurd ((noRise high).symm.trans low) (by decide)
  obtain ⟨e, -⟩ | ⟨-, low, high, -⟩ | ⟨-, low, high, -⟩ | ⟨-, low, high, -⟩ | ⟨-, low, high, -⟩ | ⟨e, -, -, wait⟩ |
    ⟨e, -⟩ := latchIn_cases v s
  · rw [e]; exact le_rfl
  · exact rises low high
  · exact rises low high
  · exact rises low high
  · exact rises low high
  · have bits : s.sl.pos.val * s.cfg.wdtTicks ≤ 7 * s.cfg.wdtTicks :=
      Nat.mul_le_mul_right _ (Nat.le_of_lt_succ s.sl.pos.isLt)
    rw [e, ticksLeft, ticksLeft, rearmsLeft_waiting wait, rearmsLeft_shift rfl]
    simp only [seeLatch_cfg]
    omega
  · rw [e]; exact le_rfl

/-- A falling edge of the clock rearms the watchdog for the one bit it puts on the line, or ends the transaction. -/
theorem clkIn_ticksLeft (v : Bool) (s : State) :
    (clkIn v s).sl.phase = .idle ∨ ticksLeft (clkIn v s) ≤ ticksLeft s := by
  obtain ⟨e, -⟩ | ⟨e, -⟩ | ⟨e, -, -, shift, more⟩ := clkIn_cases v s
  · rw [e]; exact .inr le_rfl
  · rw [e]; exact .inl rfl
  · have pos : (s.sl.pos - 1).val + 1 = s.sl.pos.val := by
      rw [Fin.val_sub_one_of_ne_zero more]
      exact Nat.sub_add_cancel (Fin.pos_of_ne_zero more)
    have before : rearmsLeft s.sl = s.sl.pos.val := rearmsLeft_shift shift
    have after : rearmsLeft (clkIn v s).sl = (s.sl.pos - 1).val := by rw [e]; exact rearmsLeft_shift shift
    right
    rw [ticksLeft, ticksLeft, before, after, ← pos, Nat.succ_mul, clkIn_cfg, e]
    simp only
    omega

/-- During a transaction the block can take no step (43_slave_emulator R199, 20_memory R62). -/
theorem blockStep_active {s : State} (active : s.sl.phase ≠ .idle) : blockStep s = .next s := by
  have closed : gateOpen s = false := (gateOpen_eq_false_iff s).2 (.inl active)
  exact blockStep_waits (portReady_of_active active) (by simp [serviceEnabled, active])
    (decodeEnabled_of_gate_closed closed)

/-- A move that is no rising edge of the latch ends the transaction or leaves it no more TICKs, and a TICK leaves it
fewer. -/
theorem perform_ticksLeft {m : Move} {s t : State} (inv : Inv s) (active : s.sl.phase ≠ .idle)
    (noRise : m = .latch true → s.sl.latchLvl = true) (h : perform m s = .next t) :
    t.sl.phase = .idle ∨ ticksLeft t + [m].count .tick ≤ ticksLeft s := by
  obtain ⟨-, -, -, slave, -⟩ := inv
  cases m with
  | tick => cases h; exact tick_ticksLeft slave active
  | peri v => cases h; exact .inr le_rfl
  | latch v => cases h; exact .inr (latchIn_ticksLeft fun high => noRise (congrArg Move.latch high))
  | clk v => cases h; exact clkIn_ticksLeft v s
  | command w => cases h; exact .inr le_rfl
  | block =>
    obtain rfl := Host.Outcome.next.inj ((blockStep_active active).symm.trans h)
    exact .inr le_rfl
  | reset => cases h; exact .inl rfl

/-- A run without a rising edge of the latch that holds as many TICKs as the transaction has left sees its end. -/
theorem idle_within_ticksLeft {ms : List Move} {s t : State} (inv : Inv s) (active : s.sl.phase ≠ .idle)
    (run : Leads ms s t)
    (noRise : ∀ (n : Nat) (u : State), Leads (ms.take n) s u → ms[n]? = some (.latch true) → u.sl.latchLvl = true)
    (enough : ticksLeft s ≤ ms.count .tick) :
    ∃ (n : Nat) (u : State), n ≤ ms.length ∧ Leads (ms.take n) s u ∧ u.sl.phase = .idle := by
  induction ms generalizing s with
  | nil =>
    obtain ⟨-, -, -, slave, -⟩ := inv
    have := ticksLeft_pos slave active
    rw [List.count_nil] at enough
    omega
  | cons m ms ih =>
    have hv := valid_of_leads_cons run
    obtain ⟨r, hp, rest⟩ := (leads_cons_iff hv).1 run
    by_cases idle : r.sl.phase = .idle
    · exact ⟨1, r.withMoves [], by simp, (leads_cons_iff hv).2 ⟨r, hp, leads_nil r⟩, idle⟩
    · have first : m = .latch true → s.sl.latchLvl = true := fun e => noRise 0 (s.withMoves []) (leads_nil s) (by simp [e])
      have fewer := (perform_ticksLeft inv active first hp).resolve_left idle
      rw [← List.singleton_append, List.count_append] at enough
      obtain ⟨n, u, le, leads, ended⟩ := ih (perform_inv hp inv) idle rest
        (fun n u leads => noRise (n + 1) u ((leads_cons_iff hv).2 ⟨r, hp, leads⟩)) (by omega)
      exact ⟨n + 1, u, Nat.succ_le_succ le, (leads_cons_iff hv).2 ⟨r, hp, leads⟩, ended⟩

/-- Settles O45: nine watchdogs are at least the TICKs that the transaction has left. -/
theorem transactionEndsWithinNineWatchdogs : Obligations.TransactionEndsWithinNineWatchdogs := by
  intro ms s t inv active run noRise enough
  have ⟨_, _, _, slave, _⟩ := inv
  exact idle_within_ticksLeft inv active run noRise ((ticksLeft_le slave).trans enough)

end Sys2Proof.Machine
end

section
/-! PROOFS. The machine never stops: a valid configuration always has a next step, and no step writes the configuration
(00_scope R8, 60_exceptions R210, 93 A21). -/

namespace Sys2Proof.Machine

/-! ### No step writes the configuration -/

@[simp] theorem utDecode_cfg (s : State) : (utDecode s).cfg = s.cfg := by
  obtain ⟨cfg, -⟩ := answerTransaction_frame s.ut.op (decodeVerdict s) s
  exact cfg

theorem exec_cfg {i : Instr} {s t : State} (h : exec i s = .next t) : t.cfg = s.cfg := by
  cases i with
  | maypoll =>
    cases h
    split_ifs
    · dsimp only
      split <;> rfl
    · rfl
  | _ =>
    cases h
    split_ifs <;> rfl

theorem blockStep_cfg {s t : State} (h : blockStep s = .next t) : t.cfg = s.cfg := by
  obtain ⟨-, rfl⟩ | ⟨-, -, rfl⟩ | ⟨-, -, -, rfl⟩ | ⟨w, rest, i, -, -, -, hx⟩ | ⟨_, _, _, -, -, -, rfl⟩ :=
    blockStep_cases h
  · exact startTransaction_cfg s
  · exact utDecode_cfg s
  · rfl
  · exact exec_cfg (s := { s with env := { s.env with cmds := rest } }) hx
  · rfl

theorem perform_cfg {m : Move} {s t : State} (h : perform m s = .next t) : t.cfg = s.cfg := by
  cases m with
  | tick => cases h; exact tick_cfg s
  | peri v => cases h; exact periDrive_cfg v s
  | latch v => cases h; exact latchIn_cfg v s
  | clk v => cases h; exact clkIn_cfg v s
  | command w => cases h; exact putCommand_cfg w s
  | block => exact blockStep_cfg h
  | reset => cases h; exact resetBlock_cfg s

theorem step_cfg {s t : State} (h : step s = .next t) : t.cfg = s.cfg := by
  obtain ⟨m, -, hp⟩ := step_performs h
  exact perform_cfg (s := s.withMoves s.env.moves.tail) hp

/-! ### Every valid machine steps, and no other does -/

/-- Neither a move nor the block's step on an empty schedule is ever refused. -/
theorem step_next {s : State} (hv : s.cfg.valid = true) : ∃ t, step s = .next t := by
  cases hm : s.env.moves with
  | nil => exact step_quiet hv hm ▸ blockStep_next s
  | cons m rest =>
    have scheduled : s.withMoves (m :: rest) = s := by rw [← hm]; rfl
    rw [← scheduled, step_move hv]
    exact perform_next m _

theorem step_refuses {s : State} (hv : s.cfg.valid = false) : step s = .refused .badConfiguration := by
  simp [step, advance, hv]

/-- Settles O8: every move answers a next state, and no move writes the configuration. -/
theorem validMachineAlwaysGoesOn : Obligations.ValidMachineAlwaysGoesOn := fun _ =>
  ⟨fun hv => (step_next hv).imp fun _ h => ⟨h, step_cfg h⟩, step_refuses⟩

end Sys2Proof.Machine
end

section
/-! PROOFS. RESET, and the separation of the latch handler from the main loop (70_reset_and_hazards R240 and R246,
60_exceptions R221, 10_state R20 and R41). -/

namespace Sys2Proof.Machine

/-! ### RESET -/

/-- RESET leaves the state that a block with this configuration has after RESET in this environment. -/
theorem resetBlock_eq (s : State) : resetBlock s = State.resetWith s.cfg s.env := rfl

/-- Settles O49: RESET overwrites the whole block, and keeps the configuration and the environment as they are. -/
theorem resetSetsEveryRegister : Obligations.ResetSetsEveryRegister := by
  intro s hv
  refine does_reset hv fun later => ?_
  rw [resetBlock_eq]
  exact ⟨rfl, rfl, rfl, rfl, rfl, rfl, fun _ => rfl, rfl⟩

/-- Settles O50: the reset values are in range, and no part of the invariant depends on the environment's levels. -/
theorem invariantHoldsAfterReset : Obligations.InvariantHoldsAfterReset := fun _ e hv => resetWith_inv e hv

/-! ### The handler leaves the main loop alone -/

/-- From `s` to `t` the main loop's registers have not moved, nor the words that wait for it (10_state R41). -/
structure KeepsMainLoop (s t : State) : Prop where
  ut : t.ut = s.ut
  rs : t.rs = s.rs
  port : t.port = s.port
  shiftByte : t.sl.shiftByte = s.sl.shiftByte
  cmds : t.env.cmds = s.env.cmds

theorem latchIn_keepsMainLoop (v : Bool) (s : State) : KeepsMainLoop s (latchIn v s) := by
  refine ⟨?_, latchIn_rs v s, ?_, latchIn_shiftByte v s, ?_⟩ <;>
    rcases latchIn_cases v s with ⟨h, -⟩ | ⟨h, -⟩ | ⟨h, -⟩ | ⟨h, -⟩ | ⟨h, -⟩ | ⟨h, -⟩ | ⟨h, -⟩ <;> simp [h]

theorem clkIn_keepsMainLoop (v : Bool) (s : State) : KeepsMainLoop s (clkIn v s) := by
  refine ⟨?_, clkIn_rs v s, ?_, clkIn_shiftByte v s, ?_⟩ <;>
    rcases clkIn_cases v s with ⟨h, -⟩ | ⟨h, -⟩ | ⟨h, -⟩ <;> simp [h]

/-- A step whose schedule begins with `m` performs `m`. -/
theorem step_performs_scheduled {m : Move} {s t : State} (hm : s.env.moves.head? = some m) (h : step s = .next t) :
    perform m (s.withMoves s.env.moves.tail) = .next t := by
  obtain ⟨m', ⟨empty, -⟩ | hm', hp⟩ := step_performs h
  · simp [empty] at hm
  · rwa [Option.some.inj (hm.symm.trans hm')]

/-- The schedule is not the main loop's. -/
theorem KeepsMainLoop.of_withMoves {ms : List Move} {s t : State} (h : KeepsMainLoop (s.withMoves ms) t) :
    KeepsMainLoop s t :=
  ⟨h.ut, h.rs, h.port, h.shiftByte, h.cmds⟩

/-- A step on latch_in or clk_in, whatever it does to SL and PS, keeps the main loop's registers. -/
theorem step_keepsMainLoop {v : Bool} {s t : State}
    (hm : s.env.moves.head? = some (.latch v) ∨ s.env.moves.head? = some (.clk v)) (h : step s = .next t) :
    KeepsMainLoop s t := by
  obtain hm | hm := hm <;> cases step_performs_scheduled hm h
  · exact (latchIn_keepsMainLoop v _).of_withMoves
  · exact (clkIn_keepsMainLoop v _).of_withMoves

/-! ### Commands leave the handler alone -/

/-- The shift byte is the only register of SL that a command can write (20_memory R67). -/
theorem exec_sl_frame {i : Instr} {s t : State} (h : exec i s = .next t) :
    t.sl = { s.sl with shiftByte := t.sl.shiftByte } := by
  obtain e | ⟨b, -, e⟩ := exec_sl_cases h <;> rw [e]

/-- No command writes the history, and ps_state is the only register of PS that a command can write: MAYPOLL writes it
(20_memory R67). -/
theorem exec_hist_ps_frame {i : Instr} {s t : State} (h : exec i s = .next t) :
    t.hist = s.hist ∧ t.ps = { s.ps with mode := t.ps.mode } := by
  cases i with
  | maypoll =>
    cases h
    split_ifs
    · dsimp only
      split <;> exact ⟨rfl, rfl⟩
    · exact ⟨rfl, rfl⟩
  | _ =>
    cases h
    split_ifs <;> exact ⟨rfl, rfl⟩

/-- Settles O47: the handler's moves keep the main loop's registers, and a command keeps the handler's. -/
theorem handlerAndMainLoopAreSeparate : Obligations.HandlerAndMainLoopAreSeparate := by
  refine ⟨fun s t v hm h => ?_, fun s t i h => ?_⟩
  · obtain ⟨ut, rs, port, shiftByte, cmds⟩ := step_keepsMainLoop hm h
    exact ⟨ut, rs, port, shiftByte, cmds⟩
  · obtain ⟨hist, ps⟩ := exec_hist_ps_frame h
    exact ⟨exec_sl_frame h, hist, by rw [ps], by rw [ps], by rw [ps]⟩

end Sys2Proof.Machine
end
